-- ==== Sys2Proof/Word.lean ====
section
/-! DEFINITION. The bit patterns of the hardware: register words, register indices, the widths of the
instruction fields (spec/00_scope.md rules R6, R7, R8). -/

namespace Sys2Proof

/-- A register value: a 32-bit pattern (`XLEN` = 32, rules R6 and R8). Bit 0 is the least significant (R7). -/
abbrev Word := BitVec 32

/-- A byte of an instruction word, for the word-level wrapper only (92_eei_decisions.md D12). -/
abbrev Byte := BitVec 8

/-- A register index 0..31: a 5-bit field, so no other index can be formed (10_state.md R25, D17). -/
abbrev RegIdx := BitVec 5

/-- A shift amount 0..31 (41_shift.md R100, D18). -/
abbrev ShiftAmount := BitVec 5

/-- A raw 16-bit immediate (30_encoding.md R50). -/
abbrev Imm16 := BitVec 16

/-- An `opcode` or `functionCode` field (30_encoding.md R50). -/
abbrev Code := BitVec 6

end Sys2Proof
end

