-- ==== Sys2Proof/Syntax.lean ====
section
/-! DEFINITION. What the caller presents (the seven instruction fields, spec/30_encoding.md R50) and what the
decoder makes of it: one constructor for each of the 22 operations (00_scope.md R3, opcode_table.json). -/

namespace Sys2Proof

/-- The seven instruction fields of one step (30_encoding.md R50). Every combination of values is a legal
input, those that no 32-bit word produces among them (R55, D24). -/
structure Fields where
  opcode : Code
  rs : RegIdx
  rt : RegIdx
  rd : RegIdx
  /-- `shiftAmount`. -/
  sa : ShiftAmount
  /-- `functionCode`. -/
  funct : Code
  /-- `immediate`. -/
  imm : Imm16
deriving DecidableEq, Repr

/-- One constructor for each operation of rule R3, with the operands the operation uses, in the order of the
assembler syntax (30_encoding.md R65). Fields an operation ignores (R52, R53) are dropped by the decoder. -/
inductive Instr where
  /-- R91. -/
  | noop
  /-- R101. -/
  | sll (rd rt : RegIdx) (sa : ShiftAmount)
  /-- R102. -/
  | srl (rd rt : RegIdx) (sa : ShiftAmount)
  /-- R103. -/
  | sra (rd rt : RegIdx) (sa : ShiftAmount)
  /-- R104. -/
  | sllv (rd rt rs : RegIdx)
  /-- R105. -/
  | srlv (rd rt rs : RegIdx)
  /-- R121. -/
  | add (rd rs rt : RegIdx)
  /-- R122. -/
  | addu (rd rs rt : RegIdx)
  /-- R123. -/
  | sub (rd rs rt : RegIdx)
  /-- R124. -/
  | subu (rd rs rt : RegIdx)
  /-- R125. -/
  | and (rd rs rt : RegIdx)
  /-- R126. -/
  | or (rd rs rt : RegIdx)
  /-- R127. -/
  | xor (rd rs rt : RegIdx)
  /-- R128. -/
  | slt (rd rs rt : RegIdx)
  /-- R129. -/
  | sltu (rd rs rt : RegIdx)
  /-- R141. -/
  | addi (rt rs : RegIdx) (imm : Imm16)
  /-- R142. -/
  | addiu (rt rs : RegIdx) (imm : Imm16)
  /-- R143. -/
  | slti (rt rs : RegIdx) (imm : Imm16)
  /-- R144. -/
  | sltiu (rt rs : RegIdx) (imm : Imm16)
  /-- R145, present when `HAS_LOGICAL_IMM`. -/
  | andi (rt rs : RegIdx) (imm : Imm16)
  /-- R146, present when `HAS_LOGICAL_IMM`. -/
  | ori (rt rs : RegIdx) (imm : Imm16)
  /-- R147, present when `HAS_LOGICAL_IMM`. -/
  | xori (rt rs : RegIdx) (imm : Imm16)
deriving DecidableEq, Repr

end Sys2Proof
end

