-- ==== Sys2Proof/Config.lean ====
section
/-! DEFINITION. What an implementation fixes (the parameters of spec/00_scope.md R6), the register contents the
model takes at reset, and the values the spec leaves free (93_implementation_defined.md A2, A3, A4). -/

namespace Sys2Proof

/-- `LOGICAL_IMM_EXT` (00_scope.md R6, 92_eei_decisions.md D9). -/
inductive ImmExt where
  | sign
  | zero
deriving DecidableEq, Repr

/-- `FETCH_ENDIAN`, a parameter of a word-level wrapper only (00_scope.md R6, 92_eei_decisions.md D12). -/
inductive Endian where
  | big
  | little
deriving DecidableEq, Repr

/-- The two named parameters of the core that are fixed when the hardware is built (00_scope.md R6,
10_state.md R28). DESIGN CHOICE, safe (entry 4): they stand in State, so that every claim covers every build. -/
structure Params where
  /-- `HAS_LOGICAL_IMM` (D8). -/
  hasLogicalImm : Bool
  /-- `LOGICAL_IMM_EXT` (D9). -/
  logicalImmExt : ImmExt
deriving DecidableEq, Repr

/-- The defaults of rule R6: `HAS_LOGICAL_IMM` is true, `LOGICAL_IMM_EXT` is SIGN. -/
def Params.default : Params :=
  { hasLogicalImm := true, logicalImmExt := .sign }

/-- The register contents of `State.reset`. DESIGN CHOICE, unsafe (entry 1): the spec leaves `REG_INIT` open
(10_state.md R32) and the model takes zero for each register. `State.launch` takes any contents. -/
def Config.regInit : Vector Word 32 :=
  Vector.replicate 32 0

/-- What a register that the launch left without a value holds: a free value (10_state.md R32, entry 5). -/
opaque Config.unsetRegister : RegIdx → Word

/-- `waddr` while `we = 0`: a free value, a function of the block's inputs because the block is combinational
(40_dispatch.md R87, 92_eei_decisions.md D2 and D5, entry 6). -/
opaque Config.idleWaddr : Params → Fields → Word → Word → RegIdx

/-- `wdata` while `we = 0`: a free value (40_dispatch.md R87, D5, entry 6). -/
opaque Config.idleWdata : Params → Fields → Word → Word → Word

/-- `err_opcode` while `unsupported = 0`: a free value (40_dispatch.md R88, D16, entry 6). -/
opaque Config.idleErrOpcode : Params → Fields → Word → Word → Code

/-- `err_funct` while `unsupported = 0`: a free value (40_dispatch.md R88, D16, entry 6). -/
opaque Config.idleErrFunct : Params → Fields → Word → Word → Code

end Sys2Proof
end

