-- ==== Sys2Proof/WellFormed.lean ====
section
/-! DEFINITION. Which instructions a build of the hardware has. The operand types admit no index, shift
amount or immediate out of range (spec/10_state.md R25, 41_shift.md R100), so the one check left is the
presence of ANDI, ORI and XORI (43_immediate_alu.md R145, R146, R147). -/

namespace Sys2Proof

/-- ANDI, ORI and XORI: the three operations behind `HAS_LOGICAL_IMM` (00_scope.md R3). -/
def Instr.isLogicalImm : Instr → Bool
  | .andi _ _ _ | .ori _ _ _ | .xori _ _ _ => true
  | .noop | .sll _ _ _ | .srl _ _ _ | .sra _ _ _ | .sllv _ _ _ | .srlv _ _ _ => false
  | .add _ _ _ | .addu _ _ _ | .sub _ _ _ | .subu _ _ _ => false
  | .and _ _ _ | .or _ _ _ | .xor _ _ _ | .slt _ _ _ | .sltu _ _ _ => false
  | .addi _ _ _ | .addiu _ _ _ | .slti _ _ _ | .sltiu _ _ _ => false

/-- The build with parameters `p` has the instruction `i` (00_scope.md R3 and R6). -/
def Instr.wellFormed (p : Params) (i : Instr) : Bool :=
  !i.isLogicalImm || p.hasLogicalImm

end Sys2Proof
end

