-- ==== Sys2Proof/Decode.lean ====
section
/-! DEFINITION. The decode/dispatch engine's decode of the seven fields (spec/40_dispatch.md R82), the
word-level wrapper around it (30_encoding.md R54, 92_eei_decisions.md D7 and D12), the encoder, and the opcode
table's own rows (opcode_table.json). -/

namespace Sys2Proof

/-! ### Decode: from the seven fields to one operation -/

/-- The one error, carrying the offending `opcode` and `functionCode` as presented (60_exceptions.md R160, R161). -/
structure Unsupported where
  opcode : Code
  funct : Code
deriving DecidableEq, Repr

/-- The error for the fields `f` (60_exceptions.md R161). -/
def Fields.unsupported (f : Fields) : Unsupported :=
  { opcode := f.opcode, funct := f.funct }

/-- The NOOP test: all seven fields are zero (30_encoding.md R63). -/
def Fields.allZero (f : Fields) : Bool :=
  f.opcode == 0 && f.funct == 0 && f.rs == 0 && f.rt == 0 && f.rd == 0 && f.sa == 0 && f.imm == 0

/-- The R-type half of rule R82, after the NOOP test: selection by `functionCode` alone (30_encoding.md R52, R59). -/
def decodeRType (f : Fields) : Except Unsupported Instr :=
  match f.funct.toNat with
  | 0x00 => .ok (.sll f.rd f.rt f.sa)
  | 0x02 => .ok (.srl f.rd f.rt f.sa)
  | 0x03 => .ok (.sra f.rd f.rt f.sa)
  | 0x04 => .ok (.sllv f.rd f.rt f.rs)
  | 0x06 => .ok (.srlv f.rd f.rt f.rs)
  | 0x20 => .ok (.add f.rd f.rs f.rt)
  | 0x21 => .ok (.addu f.rd f.rs f.rt)
  | 0x22 => .ok (.sub f.rd f.rs f.rt)
  | 0x23 => .ok (.subu f.rd f.rs f.rt)
  | 0x24 => .ok (.and f.rd f.rs f.rt)
  | 0x25 => .ok (.or f.rd f.rs f.rt)
  | 0x26 => .ok (.xor f.rd f.rs f.rt)
  | 0x2A => .ok (.slt f.rd f.rs f.rt)
  | 0x2B => .ok (.sltu f.rd f.rs f.rt)
  | _ => .error f.unsupported

/-- `i` where the build has ANDI, ORI and XORI, else the error (40_dispatch.md R82, D8). -/
def ifLogicalImm (p : Params) (f : Fields) (i : Instr) : Except Unsupported Instr :=
  if p.hasLogicalImm then .ok i else .error f.unsupported

/-- The I-type half of rule R82: selection by `opcode` alone (30_encoding.md R53, R59). -/
def decodeIType (p : Params) (f : Fields) : Except Unsupported Instr :=
  match f.opcode.toNat with
  | 0x08 => .ok (.addi f.rt f.rs f.imm)
  | 0x09 => .ok (.addiu f.rt f.rs f.imm)
  | 0x0A => .ok (.slti f.rt f.rs f.imm)
  | 0x0B => .ok (.sltiu f.rt f.rs f.imm)
  | 0x0C => ifLogicalImm p f (.andi f.rt f.rs f.imm)
  | 0x0D => ifLogicalImm p f (.ori f.rt f.rs f.imm)
  | 0x0E => ifLogicalImm p f (.xori f.rt f.rs f.imm)
  | _ => .error f.unsupported

/-- `Decode` of rule R82: total, and a function of the fields and the build parameters alone (R83). The format
is chosen by `opcode == 0` (30_encoding.md R51). -/
def decode (p : Params) (f : Fields) : Except Unsupported Instr :=
  if f.opcode = 0 then
    if f.allZero then .ok .noop else decodeRType f
  else
    decodeIType p f

/-! ### The word-level wrapper -/

/-- The split of a 32-bit word into the seven fields (30_encoding.md R54, informative, D7). All seven are
extracted from every word, whatever its format. -/
def fieldsOfWord (w : Word) : Fields :=
  { opcode := w.extractLsb' 26 6
    rs := w.extractLsb' 21 5
    rt := w.extractLsb' 16 5
    rd := w.extractLsb' 11 5
    sa := w.extractLsb' 6 5
    funct := w.extractLsb' 0 6
    imm := w.extractLsb' 0 16 }

/-- The decoding of an instruction word (R54 and R82). -/
def decodeWord (p : Params) (w : Word) : Except Unsupported Instr :=
  decode p (fieldsOfWord w)

/-- The four bytes of a word, the one at the lowest address first, in the fetch order `FETCH_ENDIAN`, which the
spec leaves open (20_memory.md R41, 92_eei_decisions.md D12, entry 7). -/
def bytesOfWord (e : Endian) (w : Word) : List Byte :=
  match e with
  | .big => [w.extractLsb' 24 8, w.extractLsb' 16 8, w.extractLsb' 8 8, w.extractLsb' 0 8]
  | .little => [w.extractLsb' 0 8, w.extractLsb' 8 8, w.extractLsb' 16 8, w.extractLsb' 24 8]

/-- The word of four bytes, the one at the lowest address first (D12, entry 7). -/
def wordOfBytes (e : Endian) (b0 b1 b2 b3 : Byte) : Word :=
  match e with
  | .big => b0 ++ b1 ++ b2 ++ b3
  | .little => b3 ++ b2 ++ b1 ++ b0

/-- Why a list of bytes gives no instruction. -/
inductive DecodeError where
  /-- The word matches no operation: the core's own error (60_exceptions.md R160). -/
  | unsupported (u : Unsupported)
  /-- Fewer than four bytes are left: every instruction is 32 bits long (30_encoding.md R64). -/
  | truncated
deriving DecidableEq, Repr

/-- The instruction at the head of a list of bytes, with the bytes after it. Total on any bytes. -/
def decodeBytes (p : Params) (e : Endian) : List Byte → Except DecodeError (Instr × List Byte)
  | b0 :: b1 :: b2 :: b3 :: rest =>
    match decodeWord p (wordOfBytes e b0 b1 b2 b3) with
    | .ok i => .ok (i, rest)
    | .error u => .error (.unsupported u)
  | _ => .error .truncated

/-- The field sets a word-level wrapper presents for a program held as bytes, word after word. A last word of
fewer than four bytes is refused. -/
def fieldsOfBytes (e : Endian) : List Byte → Except DecodeError (List Fields)
  | [] => .ok []
  | b0 :: b1 :: b2 :: b3 :: rest =>
    match fieldsOfBytes e rest with
    | .ok fs => .ok (fieldsOfWord (wordOfBytes e b0 b1 b2 b3) :: fs)
    | .error r => .error r
  | _ => .error .truncated

/-- The decoder's reading of an instruction whose bits are `w`, numbered as opcode_table.json numbers them (one
32-bit word, bit 0 its least significant), under the default parameters. The bits from `nbits` on are zero. The
word goes through its bytes in the big-endian order; the little-endian order gives the same instruction. -/
def decodeTableWord (nbits w : Nat) : Option Instr :=
  if nbits ≤ 32 then
    match decodeBytes Params.default .big (bytesOfWord .big (BitVec.ofNat 32 (w % 2 ^ nbits))) with
    | .ok (i, _) => some i
    | .error _ => none
  else
    none

/-! ### Encode: from an instruction to its word -/

/-- An R-type word (30_encoding.md R54): opcode 0, then the fields from bit 25 down. -/
def rTypeWord (rs rt rd : RegIdx) (sa : ShiftAmount) (funct : Code) : Word :=
  (0x00 : Code) ++ rs ++ rt ++ rd ++ sa ++ funct

/-- An I-type word (30_encoding.md R54). -/
def iTypeWord (opcode : Code) (rs rt : RegIdx) (imm : Imm16) : Word :=
  opcode ++ rs ++ rt ++ imm

/-- The ignored field `rs` of an encoded SLL. Zero, as 30_encoding.md R65 assembles an unused field, but for
`sll $0, $0, 0`: with `rs = 0` its word would be the all-zero NOOP word, and any non-zero `rs` keeps it SLL
(R63, 41_shift.md R101). DESIGN CHOICE, safe: 1 is taken (entry 10). -/
def sllUnusedRs (rd rt : RegIdx) (sa : ShiftAmount) : RegIdx :=
  if rd = 0 ∧ rt = 0 ∧ sa = 0 then 1 else 0

/-- The word of an instruction, from the encoding strings of opcode_table.json and the numbers of rule R59. A
field the operation ignores is zero (R65), `sll $0, $0, 0` apart. -/
def encode : Instr → Word
  | .noop => rTypeWord 0 0 0 0 0x00
  | .sll rd rt sa => rTypeWord (sllUnusedRs rd rt sa) rt rd sa 0x00
  | .srl rd rt sa => rTypeWord 0 rt rd sa 0x02
  | .sra rd rt sa => rTypeWord 0 rt rd sa 0x03
  | .sllv rd rt rs => rTypeWord rs rt rd 0 0x04
  | .srlv rd rt rs => rTypeWord rs rt rd 0 0x06
  | .add rd rs rt => rTypeWord rs rt rd 0 0x20
  | .addu rd rs rt => rTypeWord rs rt rd 0 0x21
  | .sub rd rs rt => rTypeWord rs rt rd 0 0x22
  | .subu rd rs rt => rTypeWord rs rt rd 0 0x23
  | .and rd rs rt => rTypeWord rs rt rd 0 0x24
  | .or rd rs rt => rTypeWord rs rt rd 0 0x25
  | .xor rd rs rt => rTypeWord rs rt rd 0 0x26
  | .slt rd rs rt => rTypeWord rs rt rd 0 0x2A
  | .sltu rd rs rt => rTypeWord rs rt rd 0 0x2B
  | .addi rt rs imm => iTypeWord 0x08 rs rt imm
  | .addiu rt rs imm => iTypeWord 0x09 rs rt imm
  | .slti rt rs imm => iTypeWord 0x0A rs rt imm
  | .sltiu rt rs imm => iTypeWord 0x0B rs rt imm
  | .andi rt rs imm => iTypeWord 0x0C rs rt imm
  | .ori rt rs imm => iTypeWord 0x0D rs rt imm
  | .xori rt rs imm => iTypeWord 0x0E rs rt imm

/-- The bytes of an instruction in the wrapper's fetch order. -/
def encodeBytes (e : Endian) (i : Instr) : List Byte :=
  bytesOfWord e (encode i)

/-! ### The opcode table's rows -/

/-- The mnemonic of opcode_table.json. -/
def Instr.mnemonic : Instr → String
  | .noop => "NOOP"
  | .sll _ _ _ => "SLL"
  | .srl _ _ _ => "SRL"
  | .sra _ _ _ => "SRA"
  | .sllv _ _ _ => "SLLV"
  | .srlv _ _ _ => "SRLV"
  | .add _ _ _ => "ADD"
  | .addu _ _ _ => "ADDU"
  | .sub _ _ _ => "SUB"
  | .subu _ _ _ => "SUBU"
  | .and _ _ _ => "AND"
  | .or _ _ _ => "OR"
  | .xor _ _ _ => "XOR"
  | .slt _ _ _ => "SLT"
  | .sltu _ _ _ => "SLTU"
  | .addi _ _ _ => "ADDI"
  | .addiu _ _ _ => "ADDIU"
  | .slti _ _ _ => "SLTI"
  | .sltiu _ _ _ => "SLTIU"
  | .andi _ _ _ => "ANDI"
  | .ori _ _ _ => "ORI"
  | .xori _ _ _ => "XORI"

/-- One row of opcode_table.json: `match`, `mask`, the mnemonic, and whether the row carries the condition
`HAS_LOGICAL_IMM`. -/
structure OpcodeRow where
  pattern : Word
  mask : Word
  mnemonic : String
  needsLogicalImm : Bool
deriving DecidableEq, Repr

/-- The mask of an R-type row: `opcode` and `functionCode`. -/
def rTypeMask : Word := 0xFC00003F

/-- The mask of an I-type row: `opcode`. -/
def iTypeMask : Word := 0xFC000000

/-- The 22 rows of opcode_table.json, in its order, which is the order a decoder tries them in
(30_encoding.md, introduction: the NOOP row first). -/
def opcodeRows : List OpcodeRow :=
  [⟨0x00000000, 0xFFFFFFFF, "NOOP", false⟩,
   ⟨0x00000000, rTypeMask, "SLL", false⟩, ⟨0x00000002, rTypeMask, "SRL", false⟩,
   ⟨0x00000003, rTypeMask, "SRA", false⟩, ⟨0x00000004, rTypeMask, "SLLV", false⟩,
   ⟨0x00000006, rTypeMask, "SRLV", false⟩, ⟨0x00000020, rTypeMask, "ADD", false⟩,
   ⟨0x00000021, rTypeMask, "ADDU", false⟩, ⟨0x00000022, rTypeMask, "SUB", false⟩,
   ⟨0x00000023, rTypeMask, "SUBU", false⟩, ⟨0x00000024, rTypeMask, "AND", false⟩,
   ⟨0x00000025, rTypeMask, "OR", false⟩, ⟨0x00000026, rTypeMask, "XOR", false⟩,
   ⟨0x0000002A, rTypeMask, "SLT", false⟩, ⟨0x0000002B, rTypeMask, "SLTU", false⟩,
   ⟨0x20000000, iTypeMask, "ADDI", false⟩, ⟨0x24000000, iTypeMask, "ADDIU", false⟩,
   ⟨0x28000000, iTypeMask, "SLTI", false⟩, ⟨0x2C000000, iTypeMask, "SLTIU", false⟩,
   ⟨0x30000000, iTypeMask, "ANDI", true⟩, ⟨0x34000000, iTypeMask, "ORI", true⟩,
   ⟨0x38000000, iTypeMask, "XORI", true⟩]

/-- The row applies to the word in a build with parameters `p`. -/
def OpcodeRow.applies (p : Params) (w : Word) (r : OpcodeRow) : Bool :=
  w &&& r.mask == r.pattern && (!r.needsLogicalImm || p.hasLogicalImm)

/-- The first row of the table that applies to a word (30_encoding.md, introduction). -/
def tableRow (p : Params) (w : Word) : Option OpcodeRow :=
  opcodeRows.find? (OpcodeRow.applies p w)

end Sys2Proof
end

