-- ==== Sys2Proof/Machine/State.lean ====
section
/-! DEFINITION. The machine's state, the reasons it can stop, the state at launch and at reset
(spec/10_state.md R20, R32, R33; 70_reset_and_hazards.md R180, R185). -/

namespace Sys2Proof.Machine

/-- The machine. The spec's state is the register file and nothing else (10_state.md R32): no program counter,
flags, control registers or memory exist (R26 to R30). `params` and `input` are the model's own fields
(entries 3 and 4). -/
structure State where
  /-- `x[0]`..`x[31]` (R20). Register 0 is an ordinary register (R21). -/
  regs : Vector Word 32
  /-- The build parameters (00_scope.md R6). No instruction reads them but through R82 and R145 to R147, and none
  changes them (10_state.md R28). -/
  params : Params
  /-- The instruction fields the caller has still to present, in order (70_reset_and_hazards.md R185). -/
  input : List Fields
deriving DecidableEq, Repr

/-- The reasons the machine stops with a fault. -/
inductive Fault where
  /-- UnsupportedInstruction, raised by `step` when the decoder finds no operation for the presented fields, with
  the offending `opcode` and `functionCode` (60_exceptions.md R160, R161). Safe (entry 2): the spec's own error,
  after which no register has changed; the run ends there, as rule R185 has it by default. -/
  | unsupportedInstruction (opcode funct : Code)
deriving DecidableEq, Repr

/-- The reasons a step has no meaning. -/
inductive Refusal where
  /-- An arm of `exec` that has no meaning yet. Safe. No arm is left so. -/
  | notModelled (mnemonic : String)
  /-- Raised by `step` when the caller has no further instruction to present: the run has ended normally and no
  step takes place (70_reset_and_hazards.md R185). Safe (entry 3). -/
  | noInstruction
deriving DecidableEq, Repr

/-- The state in which a run begins: register contents `REG_INIT`, build parameters, and the list of field sets
the caller will present (70_reset_and_hazards.md R185, 00_scope.md R6). -/
def State.launch (regInit : Vector Word 32) (params : Params) (input : List Fields) : State :=
  { regs := regInit, params := params, input := input }

/-- The machine after reset. The core has nothing to reset (10_state.md R33); the register contents are `REG_INIT`,
which the spec leaves open: DESIGN CHOICE, unsafe (entry 1). The parameters have the defaults of rule R6, and
nothing is presented yet (entry 3). -/
def State.reset : State :=
  State.launch Config.regInit Params.default []

end Sys2Proof.Machine
end

