-- ==== Sys2Proof/Machine/Operands.lean ====
section
/-! DEFINITION. The spec's readings, extensions and operators on words (spec/00_scope.md R8 to R11), and every
operand form: registers, immediates, shift amounts (30_encoding.md R56, R57, R58). -/

namespace Sys2Proof.Machine

/-! ### Readings (00_scope.md R8) -/

/-- signed(x): the two's-complement reading, in −2^31..2^31−1. -/
def signed (x : Word) : Int := x.toInt

/-- unsigned(x): the pattern as a non-negative integer. -/
def unsigned (x : Word) : Int := (x.toNat : Int)

/-- word32(n): the pattern whose unsigned reading is n modulo 2^32, the wrap-around of any integer. -/
def word32 (n : Int) : Word := BitVec.ofInt 32 n

/-! ### Immediates (30_encoding.md R56) -/

/-- `sext_32(v)`: bit 15 repeated into bits 31..16 (00_scope.md R9). -/
def sext32 (v : Imm16) : Word := v.signExtend 32

/-- `zext_32(v)`: zeros in bits 31..16 (00_scope.md R9). -/
def zext32 (v : Imm16) : Word := v.zeroExtend 32

/-- The operand of ANDI, ORI and XORI: sign-extended or zero-extended as `LOGICAL_IMM_EXT` says
(30_encoding.md R56, 92_eei_decisions.md D9). -/
def logicalImm (ext : ImmExt) (v : Imm16) : Word :=
  match ext with
  | .sign => sext32 v
  | .zero => zext32 v

/-! ### Shift amounts (30_encoding.md R57) -/

/-- The shift amount in a register: its low 5 bits; bits 31..5 are ignored. -/
def registerShiftAmount (x : Word) : ShiftAmount := x.extractLsb' 0 5

/-! ### Shift operators (00_scope.md R10) -/

/-- `p << s`, zero fill. -/
def shiftLeft (p : Word) (s : ShiftAmount) : Word := p <<< s.toNat

/-- `p >>u s`, zero fill whatever the sign. -/
def shiftRightLogical (p : Word) (s : ShiftAmount) : Word := p >>> s.toNat

/-- `p >>s s`, the sign bit in every vacated bit; the true arithmetic shift (90_conflicts.md C5). -/
def shiftRightArith (p : Word) (s : ShiftAmount) : Word := p.sshiftRight s.toNat

/-! ### Addition and subtraction (00_scope.md R11, 42_register_alu.md R120)

Computed on the integers as the operands are read, then wrapped. Nothing traps and nothing is signalled. -/

def addSigned (a b : Word) : Word := word32 (signed a + signed b)

def addUnsigned (a b : Word) : Word := word32 (unsigned a + unsigned b)

def subSigned (a b : Word) : Word := word32 (signed a - signed b)

def subUnsigned (a b : Word) : Word := word32 (unsigned a - unsigned b)

end Sys2Proof.Machine
end

