-- ==== Sys2Proof/Machine/Flags.lean ====
section
/-! DEFINITION. The core has no flags (spec/10_state.md R27): the only conditions it computes are the two
comparisons, delivered as a 0 or 1 in a register (00_scope.md R9, R11). -/

namespace Sys2Proof.Machine

/-- `bool32(c)`: 1 when the condition holds, else 0 (00_scope.md R9). -/
def bool32 (c : Bool) : Word := if c then 1 else 0

/-- The signed comparison of SLT and SLTI (42_register_alu.md R128, 43_immediate_alu.md R143). -/
def setLessSigned (a b : Word) : Word := bool32 (decide (signed a < signed b))

/-- The unsigned comparison of SLTU and SLTIU (42_register_alu.md R129, 43_immediate_alu.md R144). -/
def setLessUnsigned (a b : Word) : Word := bool32 (decide (unsigned a < unsigned b))

end Sys2Proof.Machine
end

