-- ==== Sys2Proof/Machine/Ops.lean ====
section
/-! DEFINITION. The operations every step is made of: the register file's read and write interface
(spec/10_state.md R23, R24), the caller's presenting of an instruction, the end of a step, and the one error. The
core has no memory (20_memory.md R40), so there are no memory operations. -/

namespace Sys2Proof.Machine

/-- The outcome of a step of this machine. -/
abbrev StepOutcome := Host.Outcome State Fault Refusal

/-- `x[r]`: a register read. It changes nothing, and every index is alike, 0 included (10_state.md R21, R23). -/
def State.reg (s : State) (r : RegIdx) : Word := s.regs[r.toNat]'r.isLt

/-- A register write: register `r` takes the value `v`, no other register changes (10_state.md R24). Register 0 is
written like any other (R21). -/
def State.setReg (s : State) (r : RegIdx) (v : Word) : State :=
  { s with regs := s.regs.set r.toNat v r.isLt }

/-- The write port `write(enable, index, word)`: a no-op when `enable` is false (10_state.md R24). -/
def State.writePort (s : State) (enable : Bool) (index : RegIdx) (word : Word) : State :=
  if enable then s.setReg index word else s

/-- The caller's list of field sets is replaced by `fs`. -/
def State.present (s : State) (fs : List Fields) : State := { s with input := fs }

/-- The end of a step that writes: the one register write commits and the step succeeds (40_dispatch.md R80, R85,
R86). `v` was computed from the state before the write. -/
def writeBack (s : State) (rd : RegIdx) (v : Word) : StepOutcome := .next (s.setReg rd v)

/-- The end of a step that writes nothing (40_dispatch.md R91). -/
def finish (s : State) : StepOutcome := .next s

/-- Raising UnsupportedInstruction, the core's only error (60_exceptions.md R160). It is no trap: nothing is saved,
no mode changes, no control is transferred (R167), and there is no return from it (R168). It is reported to the
caller with the two fields it records (R161), and no register is written. -/
def raiseUnsupported (u : Unsupported) : StepOutcome :=
  .fault (.unsupportedInstruction u.opcode u.funct)

/-- The next field set the caller presents, with the state in which its step takes place: that set is consumed
(30_encoding.md R50: the fields are "produced by caller, consumed once"). -/
def fetch (s : State) : Option (Fields × State) :=
  match s.input with
  | [] => none
  | f :: rest => some (f, s.present rest)

end Sys2Proof.Machine
end

