-- ==== Sys2Proof/Machine/ImmediateAlu.lean ====
section
/-! DEFINITION. The seven immediate operations (spec/43_immediate_alu.md). All read `x[rs]` and write `x[rt]`
(R140). The decoder gives ANDI, ORI and XORI only where the build has them (40_dispatch.md R82). -/

namespace Sys2Proof.Machine

/-- R141: `x[rt] <- word32(signed(x[rs]) + signed(sext_32(imm)))`. -/
def execAddi (rt rs : RegIdx) (imm : Imm16) (s : State) : StepOutcome :=
  writeBack s rt (addSigned (s.reg rs) (sext32 imm))

/-- R142: `x[rt] <- word32(unsigned(x[rs]) + unsigned(sext_32(imm)))`. -/
def execAddiu (rt rs : RegIdx) (imm : Imm16) (s : State) : StepOutcome :=
  writeBack s rt (addUnsigned (s.reg rs) (sext32 imm))

/-- R143: `x[rt] <- bool32(signed(x[rs]) < signed(sext_32(imm)))`. -/
def execSlti (rt rs : RegIdx) (imm : Imm16) (s : State) : StepOutcome :=
  writeBack s rt (setLessSigned (s.reg rs) (sext32 imm))

/-- R144: `x[rt] <- bool32(unsigned(x[rs]) < unsigned(sext_32(imm)))`. -/
def execSltiu (rt rs : RegIdx) (imm : Imm16) (s : State) : StepOutcome :=
  writeBack s rt (setLessUnsigned (s.reg rs) (sext32 imm))

/-- R145: `x[rt] <- x[rs] & limm`, `limm` extended as `LOGICAL_IMM_EXT` says. -/
def execAndi (rt rs : RegIdx) (imm : Imm16) (s : State) : StepOutcome :=
  writeBack s rt (s.reg rs &&& logicalImm s.params.logicalImmExt imm)

/-- R146: `x[rt] <- x[rs] | limm`, `limm` extended as `LOGICAL_IMM_EXT` says. -/
def execOri (rt rs : RegIdx) (imm : Imm16) (s : State) : StepOutcome :=
  writeBack s rt (s.reg rs ||| logicalImm s.params.logicalImmExt imm)

/-- R147: `x[rt] <- x[rs] ^ limm`, `limm` extended as `LOGICAL_IMM_EXT` says. -/
def execXori (rt rs : RegIdx) (imm : Imm16) (s : State) : StepOutcome :=
  writeBack s rt (s.reg rs ^^^ logicalImm s.params.logicalImmExt imm)

end Sys2Proof.Machine
end

