-- ==== Sys2Proof/Machine/Noop.lean ====
section
/-! DEFINITION. NOOP (spec/40_dispatch.md R91). -/

namespace Sys2Proof.Machine

/-- R91: no read, no write, no state change. -/
def execNoop (s : State) : StepOutcome := finish s

end Sys2Proof.Machine
end

