-- ==== Sys2Proof/Machine/RegisterAlu.lean ====
section
/-! DEFINITION. The nine operations on two registers (spec/42_register_alu.md). -/

namespace Sys2Proof.Machine

/-- R121: `x[rd] <- word32(signed(x[rs]) + signed(x[rt]))`. -/
def execAdd (rd rs rt : RegIdx) (s : State) : StepOutcome :=
  writeBack s rd (addSigned (s.reg rs) (s.reg rt))

/-- R122: `x[rd] <- word32(unsigned(x[rs]) + unsigned(x[rt]))`. -/
def execAddu (rd rs rt : RegIdx) (s : State) : StepOutcome :=
  writeBack s rd (addUnsigned (s.reg rs) (s.reg rt))

/-- R123: `x[rd] <- word32(signed(x[rs]) − signed(x[rt]))`. -/
def execSub (rd rs rt : RegIdx) (s : State) : StepOutcome :=
  writeBack s rd (subSigned (s.reg rs) (s.reg rt))

/-- R124: `x[rd] <- word32(unsigned(x[rs]) − unsigned(x[rt]))`. -/
def execSubu (rd rs rt : RegIdx) (s : State) : StepOutcome :=
  writeBack s rd (subUnsigned (s.reg rs) (s.reg rt))

/-- R125: `x[rd] <- x[rs] & x[rt]`. -/
def execAnd (rd rs rt : RegIdx) (s : State) : StepOutcome :=
  writeBack s rd (s.reg rs &&& s.reg rt)

/-- R126: `x[rd] <- x[rs] | x[rt]`. -/
def execOr (rd rs rt : RegIdx) (s : State) : StepOutcome :=
  writeBack s rd (s.reg rs ||| s.reg rt)

/-- R127: `x[rd] <- x[rs] ^ x[rt]`. -/
def execXor (rd rs rt : RegIdx) (s : State) : StepOutcome :=
  writeBack s rd (s.reg rs ^^^ s.reg rt)

/-- R128: `x[rd] <- bool32(signed(x[rs]) < signed(x[rt]))`. -/
def execSlt (rd rs rt : RegIdx) (s : State) : StepOutcome :=
  writeBack s rd (setLessSigned (s.reg rs) (s.reg rt))

/-- R129: `x[rd] <- bool32(unsigned(x[rs]) < unsigned(x[rt]))`. -/
def execSltu (rd rs rt : RegIdx) (s : State) : StepOutcome :=
  writeBack s rd (setLessUnsigned (s.reg rs) (s.reg rt))

end Sys2Proof.Machine
end

