-- ==== Sys2Proof/Machine/Shift.lean ====
section
/-! DEFINITION. The five shift operations (spec/41_shift.md). -/

namespace Sys2Proof.Machine

/-- R101: `x[rd] <- x[rt] << sa`. -/
def execSll (rd rt : RegIdx) (sa : ShiftAmount) (s : State) : StepOutcome :=
  writeBack s rd (shiftLeft (s.reg rt) sa)

/-- R102: `x[rd] <- x[rt] >>u sa`. -/
def execSrl (rd rt : RegIdx) (sa : ShiftAmount) (s : State) : StepOutcome :=
  writeBack s rd (shiftRightLogical (s.reg rt) sa)

/-- R103: `x[rd] <- x[rt] >>s sa`. -/
def execSra (rd rt : RegIdx) (sa : ShiftAmount) (s : State) : StepOutcome :=
  writeBack s rd (shiftRightArith (s.reg rt) sa)

/-- R104: `s <- x[rs][4:0]; x[rd] <- x[rt] << s`. -/
def execSllv (rd rt rs : RegIdx) (s : State) : StepOutcome :=
  writeBack s rd (shiftLeft (s.reg rt) (registerShiftAmount (s.reg rs)))

/-- R105: `s <- x[rs][4:0]; x[rd] <- x[rt] >>u s`. -/
def execSrlv (rd rt rs : RegIdx) (s : State) : StepOutcome :=
  writeBack s rd (shiftRightLogical (s.reg rt) (registerShiftAmount (s.reg rs)))

end Sys2Proof.Machine
end

