-- ==== Sys2Proof/Machine/Step.lean ====
section
/-! DEFINITION. One step: the core takes the presented fields, decodes them once, and performs the operation or
raises the error (spec/40_dispatch.md R80). -/

namespace Sys2Proof.Machine

/-- The step of rule R80. Where the caller presents no further instruction there is no step (70_reset_and_hazards.md
R185, entry 3). -/
def step (s : State) : Host.Outcome State Fault Refusal :=
  match fetch s with
  | none => .refused .noInstruction
  | some (f, s') =>
    match decode s.params f with
    | .error u => raiseUnsupported u
    | .ok i => exec i s'

/-- `s` with the instruction of bits `w` (numbered as opcode_table.json numbers them, the bits from `nbits` on zero)
as the next one the caller presents, in the place of the one it would have presented. The fields are those the
word-level layout gives (30_encoding.md R54). -/
def State.withFetchWord (s : State) (nbits w : Nat) : State :=
  s.present (fieldsOfWord (BitVec.ofNat 32 (w % 2 ^ nbits)) :: s.input.tail)

end Sys2Proof.Machine
end

