-- ==== Sys2Proof/Machine/Access.lean ====
section
/-! DEFINITION. Which registers an operation reads and which it writes (spec/40_dispatch.md R84). -/

namespace Sys2Proof.Machine

/-- The read set of an operation: the "Read set" column of rule R84. -/
def readSet : Instr → List RegIdx
  | .noop => []
  | .sll _ rt _ | .srl _ rt _ | .sra _ rt _ => [rt]
  | .sllv _ rt rs | .srlv _ rt rs => [rt, rs]
  | .add _ rs rt | .addu _ rs rt | .sub _ rs rt | .subu _ rs rt => [rs, rt]
  | .and _ rs rt | .or _ rs rt | .xor _ rs rt | .slt _ rs rt | .sltu _ rs rt => [rs, rt]
  | .addi _ rs _ | .addiu _ rs _ | .slti _ rs _ | .sltiu _ rs _ => [rs]
  | .andi _ rs _ | .ori _ rs _ | .xori _ rs _ => [rs]

/-- The destination of an operation: the "Destination" column of rule R84. -/
def dest : Instr → Option RegIdx
  | .noop => none
  | .sll rd _ _ | .srl rd _ _ | .sra rd _ _ | .sllv rd _ _ | .srlv rd _ _ => some rd
  | .add rd _ _ | .addu rd _ _ | .sub rd _ _ | .subu rd _ _ => some rd
  | .and rd _ _ | .or rd _ _ | .xor rd _ _ | .slt rd _ _ | .sltu rd _ _ => some rd
  | .addi rt _ _ | .addiu rt _ _ | .slti rt _ _ | .sltiu rt _ _ => some rt
  | .andi rt _ _ | .ori rt _ _ | .xori rt _ _ => some rt

end Sys2Proof.Machine
end

