-- ==== Sys2Proof/Machine/Ports.lean ====
section
/-! DEFINITION. The block at its ports: combinational outputs from the presented fields and the two read-port data
words, with the register file committing the write at the end of the step (spec/40_dispatch.md R87, R88;
92_eei_decisions.md D2, D3, D4, D5, D16). The values the spec leaves free are free here (entry 6). -/

namespace Sys2Proof.Machine

/-- The outputs of the block. -/
structure Outputs where
  raddrA : RegIdx
  raddrB : RegIdx
  we : Bool
  waddr : RegIdx
  wdata : Word
  unsupported : Bool
  errOpcode : Code
  errFunct : Code
deriving DecidableEq, Repr

/-- The result of an operation from the data on read port A (`x[rs]`) and read port B (`x[rt]`), for the operations
that write. Data outside the read set is ignored (93_implementation_defined.md A5). -/
def aluResult (ext : ImmExt) (i : Instr) (a b : Word) : Option (RegIdx × Word) :=
  match i with
  | .noop => none
  | .sll rd _ sa => some (rd, shiftLeft b sa)
  | .srl rd _ sa => some (rd, shiftRightLogical b sa)
  | .sra rd _ sa => some (rd, shiftRightArith b sa)
  | .sllv rd _ _ => some (rd, shiftLeft b (registerShiftAmount a))
  | .srlv rd _ _ => some (rd, shiftRightLogical b (registerShiftAmount a))
  | .add rd _ _ => some (rd, addSigned a b)
  | .addu rd _ _ => some (rd, addUnsigned a b)
  | .sub rd _ _ => some (rd, subSigned a b)
  | .subu rd _ _ => some (rd, subUnsigned a b)
  | .and rd _ _ => some (rd, a &&& b)
  | .or rd _ _ => some (rd, a ||| b)
  | .xor rd _ _ => some (rd, a ^^^ b)
  | .slt rd _ _ => some (rd, setLessSigned a b)
  | .sltu rd _ _ => some (rd, setLessUnsigned a b)
  | .addi rt _ imm => some (rt, addSigned a (sext32 imm))
  | .addiu rt _ imm => some (rt, addUnsigned a (sext32 imm))
  | .slti rt _ imm => some (rt, setLessSigned a (sext32 imm))
  | .sltiu rt _ imm => some (rt, setLessUnsigned a (sext32 imm))
  | .andi rt _ imm => some (rt, a &&& logicalImm ext imm)
  | .ori rt _ imm => some (rt, a ||| logicalImm ext imm)
  | .xori rt _ imm => some (rt, a ^^^ logicalImm ext imm)

/-- The outputs in a step with no write and no error. -/
def idleOutputs (p : Params) (f : Fields) (rdataA rdataB : Word) : Outputs :=
  { raddrA := f.rs
    raddrB := f.rt
    we := false
    waddr := Config.idleWaddr p f rdataA rdataB
    wdata := Config.idleWdata p f rdataA rdataB
    unsupported := false
    errOpcode := Config.idleErrOpcode p f rdataA rdataB
    errFunct := Config.idleErrFunct p f rdataA rdataB }

/-- The block: its outputs are a function of its inputs alone (R88). The read addresses are `rs` and `rt` in every
step (R87, D4); `we = 0` in an error step (R88). -/
def block (p : Params) (f : Fields) (rdataA rdataB : Word) : Outputs :=
  let idle := idleOutputs p f rdataA rdataB
  match decode p f with
  | .error _ => { idle with unsupported := true, errOpcode := f.opcode, errFunct := f.funct }
  | .ok i =>
    match aluResult p.logicalImmExt i rdataA rdataB with
    | none => idle
    | some (d, v) => { idle with we := true, waddr := d, wdata := v }

/-- The block connected to the register file of `s`, with the fields `f` on its inputs: the read ports give
`x[raddr_a]` and `x[raddr_b]`, which are `x[rs]` and `x[rt]` (R87). -/
def State.outputs (s : State) (f : Fields) : Outputs :=
  block s.params f (s.reg f.rs) (s.reg f.rt)

/-- One step at the ports: the block's outputs, then the register file commits the write, or the caller sees the
error (R88). -/
def portStep (s : State) : StepOutcome :=
  match fetch s with
  | none => .refused .noInstruction
  | some (f, s') =>
    let o := s.outputs f
    if o.unsupported then
      raiseUnsupported { opcode := o.errOpcode, funct := o.errFunct }
    else
      .next (s'.writePort o.we o.waddr o.wdata)

end Sys2Proof.Machine
end

