-- ==== Sys2Proof/Machine/Run.lean ====
section
/-! DEFINITION. The caller's run (spec/70_reset_and_hazards.md R185, parameter `CONTINUE_ON_ERROR`) from a launch
that may leave registers without a value, with the model fault of 60_exceptions.md R164 on reading such a register
(10_state.md R32, 92_eei_decisions.md D10). `step` itself never raises that fault (entry 5). -/

namespace Sys2Proof.Machine

/-! ### Registers that hold a value -/

/-- For each register, whether the launch gave it a value or a step has written it (10_state.md R32). -/
abbrev DefinedRegs := Vector Bool 32

/-- Register `r` has a value. -/
def DefinedRegs.has (k : DefinedRegs) (r : RegIdx) : Bool := k[r.toNat]'r.isLt

/-- After a step of the instruction `i`, its destination has a value. -/
def DefinedRegs.afterInstr (k : DefinedRegs) (i : Instr) : DefinedRegs :=
  match dest i with
  | none => k
  | some d => k.set d.toNat true d.isLt

/-- `REG_INIT` as 92_eei_decisions.md D10 types it: a register may be left without a value. -/
abbrev RegInit := Vector (Option Word) 32

/-- One value for each register, by its index. -/
def perRegister {α : Type} (g : RegIdx → α) : Vector α 32 :=
  ⟨((List.range 32).map fun n => g (BitVec.ofNat 5 n)).toArray, by simp⟩

/-- The registers the launch gave a value. -/
def RegInit.defined (init : RegInit) : DefinedRegs :=
  perRegister fun r => (init[r.toNat]'r.isLt).isSome

/-- The register contents at launch. A register without a value holds a free value: the hardware "would read
whatever the register holds" (60_exceptions.md R164). -/
def RegInit.contents (init : RegInit) : Vector Word 32 :=
  perRegister fun r => (init[r.toNat]'r.isLt).getD (Config.unsetRegister r)

/-- The fault of a spec-level model that is not the hardware's (60_exceptions.md R164). -/
inductive ModelFault where
  /-- The decoded operation's read set holds a register without a value. -/
  | uninitRead (r : RegIdx)
deriving DecidableEq, Repr

/-- A register of the read set that has no value, if there is one: only the read set counts (40_dispatch.md R84).
DESIGN CHOICE, unsafe (entry 11): where two have none, the spec does not say which one the fault names, and this takes
the first in `readSet`'s order, `rt` before `rs` for SLLV and SRLV, `rs` before `rt` otherwise. -/
def uninitRead (k : DefinedRegs) (i : Instr) : Option RegIdx :=
  (readSet i).find? fun r => !k.has r

/-! ### The run -/

/-- Why a run ended (R185). -/
inductive EndCause where
  /-- After the step of the last instruction, the first of R185's ways where every step was OK. DESIGN CHOICE, unsafe
  (entry 12): the run of a continuing caller that passed over an error ends so too, for which R185 names no way; its
  errors stand in `RunEnd.reported`. -/
  | normal
  /-- At a step that raised a fault, for a caller that stops on an error. -/
  | fault (r : Fault)
  /-- At a step that read a register without a value. -/
  | modelFault (m : ModelFault)
  /-- At a step the machine refused. No run ends so: the caller presents an instruction for every step. -/
  | refused (r : Refusal)
deriving DecidableEq, Repr

/-- The end of a run. -/
structure RunEnd where
  cause : EndCause
  /-- The machine as the last step left it. -/
  state : State
  /-- The registers that hold a value then. -/
  defined : DefinedRegs
  /-- The errors reported to the caller, in order (60_exceptions.md R160: never silently swallowed). -/
  reported : List Unsupported
deriving DecidableEq, Repr

/-- The same end, with one error reported before the others. -/
def RunEnd.report (u : Unsupported) (e : RunEnd) : RunEnd := { e with reported := u :: e.reported }

/-- The run of a list of field sets that the caller presents in order, one a step (R185). The caller stops at the
first UnsupportedInstruction, or goes on where `continueOnError` (R168, D25). The model fault is checked after
decode and before the write, and never for an unsupported instruction (R166). That a run which passed over an error
ends `normal` is the model's choice (entry 12). -/
def callerRun (continueOnError : Bool) : List Fields → DefinedRegs → State → RunEnd
  | [], k, s => { cause := .normal, state := s.present [], defined := k, reported := [] }
  | f :: rest, k, s =>
    match decode s.params f with
    | .error u =>
      if continueOnError then
        (callerRun continueOnError rest k s).report u
      else
        { cause := .fault (.unsupportedInstruction u.opcode u.funct), state := s.present rest,
          defined := k, reported := [u] }
    | .ok i =>
      match uninitRead k i with
      | some r =>
        { cause := .modelFault (.uninitRead r), state := s.present rest, defined := k, reported := [] }
      | none =>
        match step (s.present (f :: rest)) with
        | .next t => callerRun continueOnError rest (k.afterInstr i) t
        | .fault r => { cause := .fault r, state := s.present rest, defined := k, reported := [] }
        | .refused r => { cause := .refused r, state := s.present rest, defined := k, reported := [] }

/-- The run of a program from a launch (R185). -/
def launchRun (continueOnError : Bool) (init : RegInit) (p : Params) (program : List Fields) : RunEnd :=
  callerRun continueOnError program init.defined (State.launch init.contents p program)

end Sys2Proof.Machine
end

