-- ==== Sys2Proof/Safety.lean ====
section
/-! DEFINITION. What counts as a safe step and a safe run, in the terms the statements use: one that never raises
the core's error (spec/60_exceptions.md R163, 70_reset_and_hazards.md R185). -/

namespace Sys2Proof.Machine

/-- The decoder finds an operation for the fields (40_dispatch.md R82). -/
def supported (p : Params) (f : Fields) : Bool := (decode p f).isOk

/-- Every field set the caller has still to present is supported. -/
def State.allSupported (s : State) : Bool := s.input.all (supported s.params)

/-- The step succeeds. -/
def SafeStep (s : State) : Prop := ∃ t, step s = .next t

/-- The run presents all of its instructions and every step succeeds: the first of the three ways a run ends
(70_reset_and_hazards.md R185). -/
def SafeRun (s : State) : Prop := ∃ t, Sys2Proof.core.run s.input.length s = .next t ∧ t.input = []

end Sys2Proof.Machine
end

