-- ==== Sys2Proof/Certificates/Slice0/Obligations.lean ====
section
/-! DEFINITION. The statements for the provers. The helpers of namespace Sys2Proof.Spec say in elementary terms
(bits, sums modulo 2^32) what the rules of spec/ say, without the model's own operators. -/

namespace Sys2Proof.Spec

open Sys2Proof.Machine

/-! ### The rules' own words, in elementary terms -/

/-- signed(x): the integer x − 2^32·x[31] (spec/00_scope.md R8). -/
def signedReading (x : Word) : Int := (x.toNat : Int) - 2 ^ 32 * (if x.getLsbD 31 then 1 else 0)

/-- unsigned(x): the sum of x[i]·2^i (R8). -/
def unsignedReading (x : Word) : Int := (x.toNat : Int)

/-- `v` is word32(n): the 32-bit pattern with unsigned(v) ≡ n (mod 2^32) (R8). -/
def IsWord32 (v : Word) (n : Int) : Prop := ∃ q : Int, unsignedReading v = n + q * 2 ^ 32

/-- `v` is sext_32(imm): bit 15 of `imm` repeated 16 times, then `imm` (R9). -/
def IsSext32 (v : Word) (imm : Imm16) : Prop :=
  ∀ k, k < 32 → v.getLsbD k = imm.getLsbD (if k < 16 then k else 15)

/-- Bit `k` of the extended immediate of ANDI, ORI and XORI (30_encoding.md R56, D9). -/
def logicalImmBit (ext : ImmExt) (imm : Imm16) (k : Nat) : Bool :=
  if k < 16 then imm.getLsbD k else
    match ext with
    | .sign => imm.getLsbD 15
    | .zero => false

/-- `v` is bool32(c) (R9). -/
def IsBool32 (v : Word) (c : Prop) : Prop := (c → v.toNat = 1) ∧ (¬ c → v.toNat = 0)

/-- The instruction answers a next state in which register `d` has a value that satisfies `Q`, and everything else
is as before: every other register, the build parameters, the caller's input. -/
def Completes (i : Instr) (s : State) (d : RegIdx) (Q : Word → Prop) : Prop :=
  ∃ t, exec i s = .next t ∧ Q (t.reg d) ∧ (∀ r, r ≠ d → t.reg r = s.reg r) ∧
    t.params = s.params ∧ t.input = s.input

/-- With opcode 0 and this function code the decoder gives `mk` of the fields, in every build. -/
def RTypeIs (funct : Code) (mk : Fields → Instr) : Prop :=
  ∀ p f, f.opcode = 0 → f.funct = funct → decode p f = .ok (mk f)

/-- With this opcode the decoder gives `mk` of the fields, in every build. -/
def ITypeIs (opcode : Code) (mk : Fields → Instr) : Prop :=
  ∀ p f, f.opcode = opcode → decode p f = .ok (mk f)

/-- All seven fields are zero (30_encoding.md R63). -/
def AllZero (f : Fields) : Prop :=
  f.opcode = 0 ∧ f.funct = 0 ∧ f.rs = 0 ∧ f.rt = 0 ∧ f.rd = 0 ∧ f.sa = 0 ∧ f.imm = 0

/-- The function codes whose operation uses `shiftAmount` and not `rs`: SLL, SRL, SRA (30_encoding.md R52). -/
def UsesShiftAmount (funct : Code) : Prop := funct = 0x00 ∨ funct = 0x02 ∨ funct = 0x03

/-- The illegal encodings, as rule R62 of 30_encoding.md lists them. -/
def Illegal (p : Params) (f : Fields) : Prop :=
  (f.opcode.toNat = 0 ∧
    (f.funct.toNat = 0x01 ∨ f.funct.toNat = 0x05 ∨ f.funct.toNat = 0x07 ∨
      (0x08 ≤ f.funct.toNat ∧ f.funct.toNat ≤ 0x1F) ∨ (0x27 ≤ f.funct.toNat ∧ f.funct.toNat ≤ 0x29) ∨
      (0x2C ≤ f.funct.toNat ∧ f.funct.toNat ≤ 0x3F))) ∨
  (0x01 ≤ f.opcode.toNat ∧ f.opcode.toNat ≤ 0x07) ∨
  (0x0F ≤ f.opcode.toNat ∧ f.opcode.toNat ≤ 0x3F) ∨
  (0x0C ≤ f.opcode.toNat ∧ f.opcode.toNat ≤ 0x0E ∧ p.hasLogicalImm = false)

/-- The instruction with every register index renamed by `π`. -/
def renameRegs (π : RegIdx → RegIdx) : Instr → Instr
  | .noop => .noop
  | .sll rd rt sa => .sll (π rd) (π rt) sa
  | .srl rd rt sa => .srl (π rd) (π rt) sa
  | .sra rd rt sa => .sra (π rd) (π rt) sa
  | .sllv rd rt rs => .sllv (π rd) (π rt) (π rs)
  | .srlv rd rt rs => .srlv (π rd) (π rt) (π rs)
  | .add rd rs rt => .add (π rd) (π rs) (π rt)
  | .addu rd rs rt => .addu (π rd) (π rs) (π rt)
  | .sub rd rs rt => .sub (π rd) (π rs) (π rt)
  | .subu rd rs rt => .subu (π rd) (π rs) (π rt)
  | .and rd rs rt => .and (π rd) (π rs) (π rt)
  | .or rd rs rt => .or (π rd) (π rs) (π rt)
  | .xor rd rs rt => .xor (π rd) (π rs) (π rt)
  | .slt rd rs rt => .slt (π rd) (π rs) (π rt)
  | .sltu rd rs rt => .sltu (π rd) (π rs) (π rt)
  | .addi rt rs imm => .addi (π rt) (π rs) imm
  | .addiu rt rs imm => .addiu (π rt) (π rs) imm
  | .slti rt rs imm => .slti (π rt) (π rs) imm
  | .sltiu rt rs imm => .sltiu (π rt) (π rs) imm
  | .andi rt rs imm => .andi (π rt) (π rs) imm
  | .ori rt rs imm => .ori (π rt) (π rs) imm
  | .xori rt rs imm => .xori (π rt) (π rs) imm

/-- The "Read set" column of rule R84's table. -/
def Reads (i : Instr) (r : RegIdx) : Prop :=
  match i with
  | .noop => False
  | .sll _ rt _ | .srl _ rt _ | .sra _ rt _ => r = rt
  | .sllv _ rt rs | .srlv _ rt rs => r = rt ∨ r = rs
  | .add _ rs rt | .addu _ rs rt | .sub _ rs rt | .subu _ rs rt => r = rs ∨ r = rt
  | .and _ rs rt | .or _ rs rt | .xor _ rs rt | .slt _ rs rt | .sltu _ rs rt => r = rs ∨ r = rt
  | .addi _ rs _ | .addiu _ rs _ | .slti _ rs _ | .sltiu _ rs _ => r = rs
  | .andi _ rs _ | .ori _ rs _ | .xori _ rs _ => r = rs

/-- The "Destination" column of rule R84's table. -/
def Writes (i : Instr) (r : RegIdx) : Prop :=
  match i with
  | .noop => False
  | .sll rd _ _ | .srl rd _ _ | .sra rd _ _ | .sllv rd _ _ | .srlv rd _ _ => r = rd
  | .add rd _ _ | .addu rd _ _ | .sub rd _ _ | .subu rd _ _ => r = rd
  | .and rd _ _ | .or rd _ _ | .xor rd _ _ | .slt rd _ _ | .sltu rd _ _ => r = rd
  | .addi rt _ _ | .addiu rt _ _ | .slti rt _ _ | .sltiu rt _ _ => r = rt
  | .andi rt _ _ | .ori rt _ _ | .xori rt _ _ => r = rt

/-- The registers of `K` hold the values `v`, the build has the parameters `p`, and no instruction still to be
presented has a destination in `K`. -/
def Untouched (p : Params) (K : RegIdx → Prop) (v : RegIdx → Word) (s : State) : Prop :=
  s.params = p ∧ (∀ r, K r → s.reg r = v r) ∧
    ∀ f ∈ s.input, ∀ i, decode s.params f = .ok i → ∀ d, dest i = some d → ¬ K d

/-- Every register holds a value. -/
def allDefined : DefinedRegs := Vector.replicate 32 true

end Sys2Proof.Spec

open Sys2Proof Sys2Proof.Machine Sys2Proof.Spec

/-! ### Results of the instructions -/

/-- R91: the all-zero field set is NOOP, which changes nothing and does not raise `we`; with `imm` alone non-zero it
is `sll $0, $0, 0`, which writes register 0 with its own value. (The word form is 92_eei_decisions.md D7's.) -/
def Obligations.NoopReadsAndWritesNothing : Prop :=
  (∀ p, decodeWord p 0x00000000 = .ok .noop) ∧
  (∀ p f, AllZero f → decode p f = .ok .noop) ∧
  (∀ s, exec .noop s = .next s) ∧
  (∀ (s : State) f, AllZero f → (s.outputs f).we = false) ∧
  (∀ p f, f.opcode = 0 → f.funct = 0 → ¬ AllZero f → decode p f = .ok (.sll f.rd f.rt f.sa)) ∧
  (∀ (s : State) (f : Fields), f.opcode = 0 → f.funct = 0 → f.rs = 0 → f.rt = 0 → f.rd = 0 → f.sa = 0 → f.imm ≠ 0 →
    (s.outputs f).we = true ∧ (s.outputs f).waddr = 0 ∧ (s.outputs f).wdata = s.reg 0)

/-- R101, R102: bit k of the result is bit k−sa, or bit k+sa, of the source, and 0 where there is none. (Function
codes: R59, 92_eei_decisions.md D6, entry 8.) -/
def Obligations.SllAndSrlFillWithZeros : Prop :=
  (∀ p f, f.opcode = 0 → f.funct = 0x00 → ¬ AllZero f → decode p f = .ok (.sll f.rd f.rt f.sa)) ∧
  RTypeIs 0x02 (fun f => .srl f.rd f.rt f.sa) ∧
  ∀ s rd rt sa,
    Completes (.sll rd rt sa) s rd (fun v => ∀ k, k < 32 →
      v.getLsbD k = if sa.toNat ≤ k then (s.reg rt).getLsbD (k - sa.toNat) else false) ∧
    Completes (.srl rd rt sa) s rd (fun v => ∀ k, k < 32 →
      v.getLsbD k = if k + sa.toNat ≤ 31 then (s.reg rt).getLsbD (k + sa.toNat) else false)

/-- R103: bit k of the result is bit k+sa of the source, and its sign bit where there is none; for a source with
sign bit 0 the result is SRL's. (Function code: R59, D6, entry 8.) -/
def Obligations.SraFillsWithTheSignBit : Prop :=
  RTypeIs 0x03 (fun f => .sra f.rd f.rt f.sa) ∧
  (∀ s rd rt sa, Completes (.sra rd rt sa) s rd (fun v => ∀ k, k < 32 →
    v.getLsbD k = if k + sa.toNat ≤ 31 then (s.reg rt).getLsbD (k + sa.toNat) else (s.reg rt).getLsbD 31)) ∧
  (∀ s rd rt sa, (s.reg rt).getLsbD 31 = false → exec (.sra rd rt sa) s = exec (.srl rd rt sa) s)

/-- R104, R105: the amount is `x[rs]` modulo 32, its low 5 bits; zero fill. (Function codes: R59, D6, entry 8.) -/
def Obligations.VariableShiftsUseTheLowFiveBits : Prop :=
  RTypeIs 0x04 (fun f => .sllv f.rd f.rt f.rs) ∧
  RTypeIs 0x06 (fun f => .srlv f.rd f.rt f.rs) ∧
  ∀ s rd rt rs,
    Completes (.sllv rd rt rs) s rd (fun v => ∀ k, k < 32 →
      v.getLsbD k = if (s.reg rs).toNat % 32 ≤ k then (s.reg rt).getLsbD (k - (s.reg rs).toNat % 32) else false) ∧
    Completes (.srlv rd rt rs) s rd (fun v => ∀ k, k < 32 →
      v.getLsbD k =
        if k + (s.reg rs).toNat % 32 ≤ 31 then (s.reg rt).getLsbD (k + (s.reg rs).toNat % 32) else false)

/-- R121, R122: the sum of the signed, or unsigned, readings wraps, and nothing traps. (Function codes: R59, D6,
entry 8.) -/
def Obligations.AddAndAdduWrapWithoutTrap : Prop :=
  RTypeIs 0x20 (fun f => .add f.rd f.rs f.rt) ∧
  RTypeIs 0x21 (fun f => .addu f.rd f.rs f.rt) ∧
  ∀ s rd rs rt,
    Completes (.add rd rs rt) s rd (fun v => IsWord32 v (signedReading (s.reg rs) + signedReading (s.reg rt))) ∧
    Completes (.addu rd rs rt) s rd
      (fun v => IsWord32 v (unsignedReading (s.reg rs) + unsignedReading (s.reg rt)))

/-- R123, R124: the difference of the signed, or unsigned, readings, `rs` less `rt`, wraps, and nothing traps.
(Function codes: R59, D6, entry 8.) -/
def Obligations.SubAndSubuWrapWithoutTrap : Prop :=
  RTypeIs 0x22 (fun f => .sub f.rd f.rs f.rt) ∧
  RTypeIs 0x23 (fun f => .subu f.rd f.rs f.rt) ∧
  ∀ s rd rs rt,
    Completes (.sub rd rs rt) s rd (fun v => IsWord32 v (signedReading (s.reg rs) - signedReading (s.reg rt))) ∧
    Completes (.subu rd rs rt) s rd
      (fun v => IsWord32 v (unsignedReading (s.reg rs) - unsignedReading (s.reg rt)))

/-- R125, R126, R127: bit by bit. (Function codes: R59, D6, entry 8.) -/
def Obligations.LogicalOperationsWorkBitByBit : Prop :=
  RTypeIs 0x24 (fun f => .and f.rd f.rs f.rt) ∧
  RTypeIs 0x25 (fun f => .or f.rd f.rs f.rt) ∧
  RTypeIs 0x26 (fun f => .xor f.rd f.rs f.rt) ∧
  ∀ s rd rs rt,
    Completes (.and rd rs rt) s rd (fun v => ∀ k, k < 32 →
      (v.getLsbD k = true ↔ (s.reg rs).getLsbD k = true ∧ (s.reg rt).getLsbD k = true)) ∧
    Completes (.or rd rs rt) s rd (fun v => ∀ k, k < 32 →
      (v.getLsbD k = true ↔ (s.reg rs).getLsbD k = true ∨ (s.reg rt).getLsbD k = true)) ∧
    Completes (.xor rd rs rt) s rd (fun v => ∀ k, k < 32 →
      (v.getLsbD k = true ↔ (s.reg rs).getLsbD k ≠ (s.reg rt).getLsbD k))

/-- R128, R129: 1 when `x[rs]` is less than `x[rt]` in the signed, or unsigned, reading, else 0; always written.
(Function codes: R59, D6, entry 8.) -/
def Obligations.SltAndSltuWriteZeroOrOne : Prop :=
  RTypeIs 0x2A (fun f => .slt f.rd f.rs f.rt) ∧
  RTypeIs 0x2B (fun f => .sltu f.rd f.rs f.rt) ∧
  ∀ s rd rs rt,
    Completes (.slt rd rs rt) s rd
      (fun v => IsBool32 v (signedReading (s.reg rs) < signedReading (s.reg rt))) ∧
    Completes (.sltu rd rs rt) s rd
      (fun v => IsBool32 v (unsignedReading (s.reg rs) < unsignedReading (s.reg rt)))

/-- R141, R142: the sum with the sign-extended immediate wraps, and nothing traps. (Opcodes: R59, D6, entry 8.) -/
def Obligations.AddiAndAddiuAddTheSignExtendedImmediate : Prop :=
  ITypeIs 0x08 (fun f => .addi f.rt f.rs f.imm) ∧
  ITypeIs 0x09 (fun f => .addiu f.rt f.rs f.imm) ∧
  ∀ s rt rs imm, ∃ simm, IsSext32 simm imm ∧
    Completes (.addi rt rs imm) s rt
      (fun v => IsWord32 v (signedReading (s.reg rs) + signedReading simm)) ∧
    Completes (.addiu rt rs imm) s rt
      (fun v => IsWord32 v (unsignedReading (s.reg rs) + unsignedReading simm))

/-- R143, R144: the immediate is sign-extended first, then both sides are compared in the signed, or unsigned,
reading; 0 or 1 is always written. (Opcodes: R59, D6, entry 8.) -/
def Obligations.SltiAndSltiuCompareWithTheSignExtendedImmediate : Prop :=
  ITypeIs 0x0A (fun f => .slti f.rt f.rs f.imm) ∧
  ITypeIs 0x0B (fun f => .sltiu f.rt f.rs f.imm) ∧
  ∀ s rt rs imm, ∃ simm, IsSext32 simm imm ∧
    Completes (.slti rt rs imm) s rt
      (fun v => IsBool32 v (signedReading (s.reg rs) < signedReading simm)) ∧
    Completes (.sltiu rt rs imm) s rt
      (fun v => IsBool32 v (unsignedReading (s.reg rs) < unsignedReading simm))

/-- R145, R146, R147, under both values of both build parameters, which are the spec's own decisions
92_eei_decisions.md D8 and D9: present when `HAS_LOGICAL_IMM` and unsupported otherwise; bit by bit with the
immediate extended as `LOGICAL_IMM_EXT` says. (Opcodes: R59, D6, entry 8.) -/
def Obligations.LogicalImmediatesFollowTheBuildParameters : Prop :=
  (∀ p f, p.hasLogicalImm = true →
    (f.opcode = 0x0C → decode p f = .ok (.andi f.rt f.rs f.imm)) ∧
    (f.opcode = 0x0D → decode p f = .ok (.ori f.rt f.rs f.imm)) ∧
    (f.opcode = 0x0E → decode p f = .ok (.xori f.rt f.rs f.imm))) ∧
  (∀ p f, p.hasLogicalImm = false → (f.opcode = 0x0C ∨ f.opcode = 0x0D ∨ f.opcode = 0x0E) →
    decode p f = .error { opcode := f.opcode, funct := f.funct }) ∧
  ∀ s rt rs imm,
    Completes (.andi rt rs imm) s rt (fun v => ∀ k, k < 32 →
      v.getLsbD k = ((s.reg rs).getLsbD k && logicalImmBit s.params.logicalImmExt imm k)) ∧
    Completes (.ori rt rs imm) s rt (fun v => ∀ k, k < 32 →
      v.getLsbD k = ((s.reg rs).getLsbD k || logicalImmBit s.params.logicalImmExt imm k)) ∧
    Completes (.xori rt rs imm) s rt (fun v => ∀ k, k < 32 →
      v.getLsbD k = ((s.reg rs).getLsbD k ^^ logicalImmBit s.params.logicalImmExt imm k))

/-- R145 to R147, corner case: with bit 15 of the immediate clear, the two values of `LOGICAL_IMM_EXT` give the same
registers. -/
def Obligations.LogicalImmediatesAgreeWhenBit15IsClear : Prop :=
  ∀ (s s' : State) (rt rs : RegIdx) (imm : Imm16), imm.getLsbD 15 = false → s.regs = s'.regs →
    ∀ i, i = .andi rt rs imm ∨ i = .ori rt rs imm ∨ i = .xori rt rs imm →
      ∃ t t', exec i s = .next t ∧ exec i s' = .next t' ∧ t.regs = t'.regs

/-- R120, which the spec marks as derived from R8: ADD and ADDU, SUB and SUBU, ADDI and ADDIU agree bit for bit. -/
def Obligations.SignedAndUnsignedNamesAgree : Prop :=
  ∀ s,
    (∀ rd rs rt, exec (.add rd rs rt) s = exec (.addu rd rs rt) s) ∧
    (∀ rd rs rt, exec (.sub rd rs rt) s = exec (.subu rd rs rt) s) ∧
    (∀ rt rs imm, exec (.addi rt rs imm) s = exec (.addiu rt rs imm) s)

/-! ### Frames, read sets, the register file -/

/-- R84, R85, R91 and R163: every one of the 22 instructions answers a next state from every state, and changes no
register but its destination, no build parameter and nothing of the caller's input; the model's read sets and
destinations are the two columns of R84's table. -/
def Obligations.EveryInstructionCompletesAndWritesOnlyItsDestination : Prop :=
  (∀ i s, ∃ t, exec i s = .next t ∧ (∀ r, ¬ Writes i r → t.reg r = s.reg r) ∧
    t.params = s.params ∧ t.input = s.input) ∧
  ∀ i r, (r ∈ readSet i ↔ Reads i r) ∧ (dest i = some r ↔ Writes i r)

/-- R84 and 93_implementation_defined.md A5: the value an instruction writes depends on the registers of its read set
alone (and on the build); at the ports, read data outside the read set changes no write. -/
def Obligations.ResultDependsOnlyOnTheReadSet : Prop :=
  (∀ i s s', s.params = s'.params → (∀ r ∈ readSet i, s.reg r = s'.reg r) →
    ∃ t t', exec i s = .next t ∧ exec i s' = .next t' ∧ ∀ d, dest i = some d → t.reg d = t'.reg d) ∧
  ∀ p f i a b a' b', decode p f = .ok i → (f.rs ∈ readSet i → a = a') → (f.rt ∈ readSet i → b = b') →
    (block p f a b).we = (block p f a' b').we ∧
      ((block p f a b).we = true →
        (block p f a b).waddr = (block p f a' b').waddr ∧ (block p f a b).wdata = (block p f a' b').wdata)

/-- R21: no index is special. A read returns the launch value until a write to the same index, and the last value
written after it, at every index, 0 included; and renaming the registers by any injection, in the instruction and in
the state, renames the result. -/
def Obligations.RegisterZeroBehavesLikeAnyOther : Prop :=
  (∀ init p program (r : RegIdx), (State.launch init p program).reg r = init[r.toNat]'r.isLt) ∧
  (∀ (s : State) (r : RegIdx) (v : Word), (s.setReg r v).reg r = v ∧
    ∀ q, q ≠ r → (s.setReg q v).reg r = s.reg r) ∧
  ∀ π : RegIdx → RegIdx, Function.Injective π →
    ∀ i (s s' : State), s'.params = s.params → (∀ r, s'.reg (π r) = s.reg r) →
      ∃ t t', exec i s = .next t ∧ exec (renameRegs π i) s' = .next t' ∧ ∀ r, t'.reg (π r) = t.reg r

/-- R24: the write port. -/
def Obligations.WritePortWritesOneRegisterWhenEnabled : Prop :=
  ∀ (s : State) (index : RegIdx) (word : Word),
    s.writePort false index word = s ∧
    (s.writePort true index word).reg index = word ∧
    (∀ r, r ≠ index → (s.writePort true index word).reg r = s.reg r) ∧
    (s.writePort true index word).params = s.params ∧ (s.writePort true index word).input = s.input

/-- R43, for idempotence alone, which the spec marks as derived: writing what a register holds changes nothing, and a
repeated write of one value is one write. R24, by which a write changes no other register: writes to different
registers commute. -/
def Obligations.RegisterWritesAreIdempotentAndCommute : Prop :=
  ∀ (s : State) (r q : RegIdx) (v w : Word),
    s.setReg r (s.reg r) = s ∧ (s.setReg r v).setReg r v = s.setReg r v ∧
    (r ≠ q → (s.setReg r v).setReg q w = (s.setReg q w).setReg r v)

/-- R31 and 95_test_vectors.md E7: the registers after an instruction depend on the registers before it and the
build alone, and running an instruction again that does not read its own destination changes nothing. -/
def Obligations.NoHiddenStateIsObservable : Prop :=
  (∀ i (s s' : State), s.regs = s'.regs → s.params = s'.params →
    ∃ t t', exec i s = .next t ∧ exec i s' = .next t' ∧ t.regs = t'.regs) ∧
  ∀ i s, (∀ d, dest i = some d → d ∉ readSet i) → ∃ t, exec i s = .next t ∧ exec i t = .next t

/-- R86 and R46: the next step of a run, of any length, is its instruction run on the registers as all earlier steps
left them; an instruction computes what it writes from the read ports' data as its step began (ports: D3, D4). So
`addu r, r, r` reads the old value of its own destination, and the next step, `or d, r, r`, reads the new one. -/
def Obligations.ReadsSeeEarlierWritesAndNotTheStepsOwn : Prop :=
  (∀ n (s m : State) f rest i, Sys2Proof.core.run n s = .next m → m.input = f :: rest → decode m.params f = .ok i →
    Sys2Proof.core.run (n + 1) s = exec i (m.present rest)) ∧
  (∀ (s : State) f i d, decode s.params f = .ok i → dest i = some d →
    ∃ t, exec i s = .next t ∧ t.reg d = (block s.params f (s.reg f.rs) (s.reg f.rt)).wdata) ∧
  ∀ (s : State) f g rest r d, s.input = f :: g :: rest → decode s.params f = .ok (.addu r r r) →
    decode s.params g = .ok (.or d r r) →
      ∃ t : State, Sys2Proof.core.run 2 s = .next t ∧
        IsWord32 (t.reg r) (2 * unsignedReading (s.reg r)) ∧ t.reg d = t.reg r ∧
        (∀ q, q ≠ r → q ≠ d → t.reg q = s.reg q) ∧ t.params = s.params ∧ t.input = rest

/-! ### Decoding -/

/-- R63: NOOP is exactly the all-zero field set; with any field non-zero, opcode 0 and function code 0 are SLL. -/
def Obligations.NoopIsExactlyTheAllZeroFieldSet : Prop :=
  ∀ p f, (decode p f = .ok .noop ↔ AllZero f) ∧
    (f.opcode = 0 → f.funct = 0 → ¬ AllZero f → decode p f = .ok (.sll f.rd f.rt f.sa))

/-- R52, which the spec marks as derived from R82: among R-type field sets other than NOOP's, a field the operation
does not use is ignored, whatever its value. -/
def Obligations.UnusedRTypeFieldsAreIgnored : Prop :=
  ∀ p f g, f.opcode = 0 → g.opcode = 0 → ¬ AllZero f → ¬ AllZero g → f.funct = g.funct → f.rt = g.rt →
    f.rd = g.rd → (UsesShiftAmount f.funct → f.sa = g.sa) → (¬ UsesShiftAmount f.funct → f.rs = g.rs) →
      decode p f = decode p g

/-- R53: an I-type operation is chosen from `opcode` alone, with operands `rs` (source), `rt` (destination) and
`immediate`; the other fields are ignored, but the error reports `functionCode` as given. -/
def Obligations.ITypeIsChosenByOpcodeAlone : Prop :=
  ∀ p f g, f.opcode ≠ 0 → f.opcode = g.opcode →
    (f.rs = g.rs → f.rt = g.rt → f.imm = g.imm → ∀ i, decode p f = .ok i → decode p g = .ok i) ∧
    (∀ i, decode p f = .ok i → readSet i = [f.rs] ∧ dest i = some f.rt ∧
      ∃ j, decode p g = .ok j ∧ j.mnemonic = i.mnemonic) ∧
    (∀ u, decode p f = .error u → decode p g = .error { opcode := g.opcode, funct := g.funct })

/-- R62: a step raises UnsupportedInstruction exactly on the illegal encodings, with the codes as presented. The
list of illegal numbers is the spec's derivation from R59 (D6, entry 8). -/
def Obligations.IllegalEncodingsRaiseUnsupportedInstruction : Prop :=
  ∀ s f rest, s.input = f :: rest →
    ((∃ r, step s = .fault r) ↔ Illegal s.params f) ∧
    (Illegal s.params f → step s = .fault (.unsupportedInstruction f.opcode f.funct))

/-- R54 and R55, the informative word layout (92_eei_decisions.md D7): where each field lies, that `immediate` is
`rd ++ shiftAmount ++ functionCode`, and that NOOP is exactly the zero word. -/
def Obligations.WordLayoutPlacesTheFields : Prop :=
  ∀ w : Word,
    (fieldsOfWord w).opcode.toNat = w.toNat / 2 ^ 26 ∧
    (fieldsOfWord w).rs.toNat = w.toNat / 2 ^ 21 % 32 ∧
    (fieldsOfWord w).rt.toNat = w.toNat / 2 ^ 16 % 32 ∧
    (fieldsOfWord w).rd.toNat = w.toNat / 2 ^ 11 % 32 ∧
    (fieldsOfWord w).sa.toNat = w.toNat / 2 ^ 6 % 32 ∧
    (fieldsOfWord w).funct.toNat = w.toNat % 64 ∧
    (fieldsOfWord w).imm.toNat = w.toNat % 2 ^ 16 ∧
    (fieldsOfWord w).imm = (fieldsOfWord w).rd ++ (fieldsOfWord w).sa ++ (fieldsOfWord w).funct ∧
    ∀ p, decodeWord p w = .ok .noop ↔ w = 0

/-- R55 (92_eei_decisions.md D24): under R-type, changing `immediate` alone can only turn NOOP into
`sll $0, $0, 0` or back. -/
def Obligations.OnlyTheNoopTestSeesTheRTypeImmediate : Prop :=
  ∀ p f m, f.opcode = 0 → decode p f ≠ decode p { f with imm := m } →
    f.funct = 0 ∧ f.rs = 0 ∧ f.rt = 0 ∧ f.rd = 0 ∧ f.sa = 0 ∧
      ((decode p f = .ok .noop ∧ decode p { f with imm := m } = .ok (.sll 0 0 0)) ∨
        (decode p f = .ok (.sll 0 0 0) ∧ decode p { f with imm := m } = .ok .noop))

/-- R54, R59, R65 (D6, D7, D12): for every instruction a build has, decoding its word, or its bytes in either fetch
order with any bytes after them, gives the instruction back with every operand. -/
def Obligations.EncodeThenDecodeGivesTheInstructionBack : Prop :=
  ∀ p i, i.wellFormed p = true →
    decodeWord p (encode i) = .ok i ∧
    ∀ e rest, decodeBytes p e (encodeBytes e i ++ rest) = .ok (i, rest)

/-- 30_encoding.md, introduction: the decoder agrees with the rows of opcode_table.json tried in order. On every
word it finds the first row's operation, and it raises the error exactly where no row applies. -/
def Obligations.DecoderAgreesWithTheOpcodeTable : Prop :=
  ∀ p w,
    (∀ i, decodeWord p w = .ok i → ∃ r, tableRow p w = some r ∧ r.mnemonic = i.mnemonic) ∧
    (∀ u, decodeWord p w = .error u → tableRow p w = none)

/-- Words that 95_test_vectors.md writes out in its programs P1 to P5, one or more a family, decode as listed there
(D6, D7). -/
def Obligations.SampleWordsDecodeAsListed : Prop :=
  decodeWord Params.default 0x00000000 = .ok .noop ∧
  decodeWord Params.default 0x00010C00 = .ok (.sll 1 1 16) ∧
  decodeWord Params.default 0x00011903 = .ok (.sra 3 1 4) ∧
  decodeWord Params.default 0x00412806 = .ok (.srlv 5 1 2) ∧
  decodeWord Params.default 0x00222820 = .ok (.add 5 1 2) ∧
  decodeWord Params.default 0x00833023 = .ok (.subu 6 4 3) ∧
  decodeWord Params.default 0x00432026 = .ok (.xor 4 2 3) ∧
  decodeWord Params.default 0x0022182A = .ok (.slt 3 1 2) ∧
  decodeWord Params.default 0x24011234 = .ok (.addiu 1 0 0x1234) ∧
  decodeWord Params.default 0x2CE9FFFF = .ok (.sltiu 9 7 0xFFFF) ∧
  decodeWord Params.default 0x34215678 = .ok (.ori 1 1 0x5678) ∧
  decodeWord Params.default 0x0000003F = .error { opcode := 0x00, funct := 0x3F }

/-- A program assembled to bytes in either fetch order is presented field set by field set (D12, entry 7). -/
def Obligations.ProgramBytesArePresentedWordByWord : Prop :=
  ∀ e (program : List Instr),
    fieldsOfBytes e (program.flatMap (encodeBytes e)) = .ok (program.map (fun i => fieldsOfWord (encode i)))

/-! ### The step and the error -/

/-- R80: the step decodes the presented fields once and runs the decoded instruction, with those fields consumed; if
there is no operation it raises the error. -/
def Obligations.StepRunsTheDecodedInstruction : Prop :=
  ∀ s f rest, s.input = f :: rest →
    (∀ i, decode s.params f = .ok i → step s = exec i (s.present rest)) ∧
    (∀ u, decode s.params f = .error u → step s = .fault (.unsupportedInstruction f.opcode f.funct))

/-- R160: the error is raised exactly when the decoder finds no operation; no register is written, on the ports
(R88, D16) `unsupported = 1`, `we = 0` and the two codes are reported, and the caller receives the error with the
register file unchanged. That the error ends the machine's step as a fault, and the run of this caller, is the model's
choice (entry 2, D25). -/
def Obligations.UnsupportedIsRaisedExactlyWhenDecodeFails : Prop :=
  ∀ s f rest, s.input = f :: rest →
    (step s = .fault (.unsupportedInstruction f.opcode f.funct) ↔ ∃ u, decode s.params f = .error u) ∧
    (∀ u, decode s.params f = .error u →
      ((s.outputs f).unsupported = true ∧ (s.outputs f).we = false ∧
        (s.outputs f).errOpcode = f.opcode ∧ (s.outputs f).errFunct = f.funct) ∧
      ∀ k, (callerRun false (f :: rest) k s).cause = .fault (.unsupportedInstruction f.opcode f.funct) ∧
        (callerRun false (f :: rest) k s).reported = [{ opcode := f.opcode, funct := f.funct }] ∧
        (callerRun false (f :: rest) k s).state.regs = s.regs)

/-- R163, R166, R175: a step succeeds and consumes its fields, or raises UnsupportedInstruction, and nothing else
happens. Without a presented instruction there is no step, which is the model's own convention (entry 3). -/
def Obligations.OnlyUnsupportedInstructionsStopAStep : Prop :=
  ∀ s, (s.input = [] ∧ step s = .refused .noInstruction) ∨
    ∃ f rest, s.input = f :: rest ∧
      ((∃ u, decode s.params f = .error u) ∧ step s = .fault (.unsupportedInstruction f.opcode f.funct) ∨
        ∃ i t, decode s.params f = .ok i ∧ step s = .next t ∧ t.input = rest ∧ t.params = s.params)

/-- The word the host places is the next instruction the step runs (R54 and R80, the model's own convention, entry 3). -/
def Obligations.WordPlacedNextIsTheInstructionRun : Prop :=
  ∀ (s : State) w i, w < 2 ^ 32 → s.params = Params.default → decodeTableWord 32 w = some i →
    step (s.withFetchWord 32 w) = exec i (s.present s.input.tail)

/-! ### Invariants and runs -/

/-- R20 and R28, kept by every step: the registers that no instruction still to be presented has as its destination
keep their values, and the build parameters never change. -/
def Obligations.UntouchedRegistersAndBuildAreInvariant : Prop :=
  ∀ p K v s t, Untouched p K v s → step s = .next t → Untouched p K v t

/-- The invariant holds at launch for the registers a program does not write, and at reset for every set of
registers, with the contents `State.reset` has (entry 1) and the default build of R6. -/
def Obligations.UntouchedHoldsAtLaunchAndReset : Prop :=
  (∀ init p program (K : RegIdx → Prop),
    (∀ f ∈ program, ∀ i, decode p f = .ok i → ∀ d, dest i = some d → ¬ K d) →
      Untouched p K (State.launch init p program).reg (State.launch init p program)) ∧
  ∀ K : RegIdx → Prop, Untouched Params.default K State.reset.reg State.reset

/-- R185, first case, and R184: a program of supported field sets runs to its end in as many steps as it has
instructions. -/
def Obligations.SupportedProgramsRunToTheirEnd : Prop :=
  ∀ s : State, s.allSupported = true →
    ∃ t : State, Sys2Proof.core.run s.input.length s = .next t ∧ t.input = [] ∧ t.params = s.params

/-- R185, second case (`CONTINUE_ON_ERROR` false, the spec's default, D25): the run stops at the first unsupported
field set, with the register file as the steps before it left it. -/
def Obligations.RunStopsAtTheFirstUnsupportedInstruction : Prop :=
  ∀ (s : State) pre f rest, s.input = pre ++ f :: rest → (∀ g ∈ pre, supported s.params g = true) →
    supported s.params f = false →
      (∀ n, Sys2Proof.core.run (pre.length + 1 + n) s = .fault (.unsupportedInstruction f.opcode f.funct)) ∧
      ∃ t : State, Sys2Proof.core.run pre.length s = .next t ∧ t.input = f :: rest ∧
        (callerRun false s.input allDefined s).cause = .fault (.unsupportedInstruction f.opcode f.funct) ∧
        (callerRun false s.input allDefined s).state.regs = t.regs

/-- R168: to a caller that continues, the steps after an error run exactly as they would have without it, and the
error is reported (D25). That the run's end is then classed as that of the rest is the model's choice (entry 12). -/
def Obligations.StepsAfterAnErrorRunAsWithoutIt : Prop :=
  ∀ (s : State) bad rest k, (∀ g ∈ bad, supported s.params g = false) →
    callerRun true (bad ++ rest) k s =
      { callerRun true rest k s with
        reported := bad.map Fields.unsupported ++ (callerRun true rest k s).reported }

/-- R185 and D1: where every register holds a value, the run of a caller that stops on an error is the machine's own
run. -/
def Obligations.CallerRunIsTheMachinesRun : Prop :=
  ∀ (s : State) program,
    ((callerRun false program allDefined s).cause = .normal ∧
      Sys2Proof.core.run program.length (s.present program) =
        .next (callerRun false program allDefined s).state) ∨
    ∃ r, (callerRun false program allDefined s).cause = .fault r ∧
      Sys2Proof.core.run program.length (s.present program) = .fault r

/-- R32 and R164 (92_eei_decisions.md D10): nothing a run reports, and no register that holds a value at its end,
depends on what the registers without a value hold. -/
def Obligations.RunDoesNotDependOnUnsetRegisters : Prop :=
  ∀ continueOnError program (k : DefinedRegs) (s s' : State), s.params = s'.params →
    (∀ r, k.has r = true → s.reg r = s'.reg r) →
      (callerRun continueOnError program k s).cause = (callerRun continueOnError program k s').cause ∧
      (callerRun continueOnError program k s).reported = (callerRun continueOnError program k s').reported ∧
      (callerRun continueOnError program k s).defined = (callerRun continueOnError program k s').defined ∧
      ∀ r, (callerRun continueOnError program k s).defined.has r = true →
        (callerRun continueOnError program k s).state.reg r = (callerRun continueOnError program k s').state.reg r

/-- R164 and R166 (D10), with R84's read sets: the model fault is raised exactly when the decoded operation's read
set holds a register without a value, before anything is written, and never for an unsupported instruction. Which of
two such registers it names is left open (entry 11). A register has a value once a step has written it (R32). With
nothing left to present the run ends normally, for either caller (R185, D25). -/
def Obligations.ModelFaultExactlyOnReadingAnUnsetRegister : Prop :=
  (∀ (k : DefinedRegs) i r, (k.afterInstr i).has r = true ↔ k.has r = true ∨ Writes i r) ∧
  (∀ c (k : DefinedRegs) (s : State),
    (callerRun c [] k s).cause = .normal ∧ (callerRun c [] k s).state.regs = s.regs ∧
      (callerRun c [] k s).state.params = s.params ∧ (callerRun c [] k s).defined = k ∧
      (callerRun c [] k s).reported = []) ∧
  ∀ c f rest (k : DefinedRegs) (s : State),
    (∀ i, decode s.params f = .ok i → (∃ r, Reads i r ∧ k.has r = false) →
      ∃ r, Reads i r ∧ k.has r = false ∧
        (callerRun c (f :: rest) k s).cause = .modelFault (.uninitRead r) ∧
        (callerRun c (f :: rest) k s).state.regs = s.regs ∧
        (callerRun c (f :: rest) k s).state.params = s.params ∧
        (callerRun c (f :: rest) k s).defined = k ∧ (callerRun c (f :: rest) k s).reported = []) ∧
    (∀ i, decode s.params f = .ok i → (∀ r, Reads i r → k.has r = true) →
      ∃ t, exec i (s.present rest) = .next t ∧
        callerRun c (f :: rest) k s = callerRun c rest (k.afterInstr i) t) ∧
    (∀ u, decode s.params f = .error u →
      (callerRun false (f :: rest) k s).cause = .fault (.unsupportedInstruction f.opcode f.funct) ∧
        (callerRun false (f :: rest) k s).state.regs = s.regs ∧
        (callerRun false (f :: rest) k s).state.params = s.params ∧
        (callerRun false (f :: rest) k s).defined = k ∧
        (callerRun false (f :: rest) k s).reported = [{ opcode := f.opcode, funct := f.funct }])

/-- R32, R164, R185 (D10): the run of a program from a launch is the caller's run of that program from the registers,
the unset registers and the build the launch gives; and the model fault never arises from a launch that gives every
register a value. -/
def Obligations.FullyInitialisedLaunchesNeverModelFault : Prop :=
  (∀ c (init : RegInit) p program, ∃ (k : DefinedRegs) (s : State),
    launchRun c init p program = callerRun c program k s ∧
      (∀ r : RegIdx, k.has r = true ↔ ∃ v, init[r.toNat]'r.isLt = some v) ∧
      (∀ (r : RegIdx) v, init[r.toNat]'r.isLt = some v → s.reg r = v) ∧ s.params = p) ∧
  ∀ c (init : RegInit) p program, (∀ r : RegIdx, (init[r.toNat]'r.isLt).isSome = true) →
    ∀ m, (launchRun c init p program).cause ≠ .modelFault m

/-! ### The ports -/

/-- R87, R88 (D2, D3, D4): the combinational block with the register file around it does, on every state, what the
step does, whatever values the block drives while `we = 0` or `unsupported = 0` (entry 6). -/
def Obligations.PortStepIsTheStep : Prop :=
  ∀ s, portStep s = step s

/-- R85, R87, R88 (ports: D3, D4, D16): the read addresses are `rs` and `rt` in every step; `we` is 1 exactly for a
recognised instruction other than NOOP, with its destination and the value it writes; `unsupported` is 1 exactly when
the decoder finds no operation. -/
def Obligations.PortsCarryTheOneWriteOrTheError : Prop :=
  ∀ (s : State) f,
    (s.outputs f).raddrA = f.rs ∧ (s.outputs f).raddrB = f.rt ∧
    ((s.outputs f).we = true ↔ ∃ i, decode s.params f = .ok i ∧ i ≠ .noop) ∧
    ((s.outputs f).unsupported = true ↔ ∃ u, decode s.params f = .error u) ∧
    (∀ i, decode s.params f = .ok i → i ≠ .noop →
      dest i = some (s.outputs f).waddr ∧ exec i s = .next (s.setReg (s.outputs f).waddr (s.outputs f).wdata))
end

