-- ==== Sys2Proof/Laws/Decode.lean ====
section
/-! SUPPORT. The word layout and the decoder, one lemma a function: what the fields of an assembled word are, which
bits a row's mask keeps, and what the decoder answers on each format. -/

namespace Sys2Proof

/-! ### The word layout -/

theorem Fields.ext_fields {f g : Fields} (h1 : f.opcode = g.opcode) (h2 : f.rs = g.rs) (h3 : f.rt = g.rt)
    (h4 : f.rd = g.rd) (h5 : f.sa = g.sa) (h6 : f.funct = g.funct) (h7 : f.imm = g.imm) : f = g := by
  cases f; cases g; simp_all

theorem fieldsOfWord_rTypeWord (rs rt rd : RegIdx) (sa : ShiftAmount) (funct : Code) :
    fieldsOfWord (rTypeWord rs rt rd sa funct) =
      { opcode := 0, rs := rs, rt := rt, rd := rd, sa := sa, funct := funct, imm := rd ++ sa ++ funct } := by
  apply Fields.ext_fields <;>
  · apply BitVec.eq_of_getLsbD_eq
    intro k hk
    simp only [fieldsOfWord, rTypeWord, BitVec.getLsbD_extractLsb', BitVec.getLsbD_append]
    interval_cases k <;> simp

theorem fieldsOfWord_iTypeWord (opcode : Code) (rs rt : RegIdx) (imm : Imm16) :
    fieldsOfWord (iTypeWord opcode rs rt imm) =
      { opcode := opcode, rs := rs, rt := rt, rd := imm.extractLsb' 11 5, sa := imm.extractLsb' 6 5,
        funct := imm.extractLsb' 0 6, imm := imm } := by
  apply Fields.ext_fields <;>
  · apply BitVec.eq_of_getLsbD_eq
    intro k hk
    simp only [fieldsOfWord, iTypeWord, BitVec.getLsbD_extractLsb', BitVec.getLsbD_append]
    interval_cases k <;> simp

theorem rTypeWord_and_mask (rs rt rd : RegIdx) (sa : ShiftAmount) (funct : Code) :
    rTypeWord rs rt rd sa funct &&& rTypeMask = (0 : BitVec 26) ++ funct := by
  apply BitVec.eq_of_getLsbD_eq
  intro k hk
  simp only [rTypeWord, rTypeMask, BitVec.getLsbD_and, BitVec.getLsbD_append]
  interval_cases k <;> simp

theorem iTypeWord_and_mask (opcode : Code) (rs rt : RegIdx) (imm : Imm16) :
    iTypeWord opcode rs rt imm &&& iTypeMask = opcode ++ (0 : BitVec 26) := by
  apply BitVec.eq_of_getLsbD_eq
  intro k hk
  simp only [iTypeWord, iTypeMask, BitVec.getLsbD_and, BitVec.getLsbD_append]
  interval_cases k <;> simp

/-- Any word masked as an R-type row masks it: the `opcode` and `functionCode` fields, zeros between. -/
theorem and_rTypeMask (w : Word) :
    w &&& rTypeMask = (fieldsOfWord w).opcode ++ (0 : BitVec 20) ++ (fieldsOfWord w).funct := by
  apply BitVec.eq_of_getLsbD_eq
  intro k hk
  simp only [fieldsOfWord, rTypeMask, BitVec.getLsbD_and, BitVec.getLsbD_append, BitVec.getLsbD_extractLsb']
  interval_cases k <;> simp

/-- Any word masked as an I-type row masks it: the `opcode` field, zeros below. -/
theorem and_iTypeMask (w : Word) : w &&& iTypeMask = (fieldsOfWord w).opcode ++ (0 : BitVec 26) := by
  apply BitVec.eq_of_getLsbD_eq
  intro k hk
  simp only [fieldsOfWord, iTypeMask, BitVec.getLsbD_and, BitVec.getLsbD_append, BitVec.getLsbD_extractLsb']
  interval_cases k <;> simp

/-- The pattern of an R-type row determines its two codes. -/
theorem rTypePattern_inj {a b c d : Code} :
    a ++ (0 : BitVec 20) ++ b = c ++ (0 : BitVec 20) ++ d ↔ a = c ∧ b = d := by
  refine ⟨fun h => ⟨?_, ?_⟩, by rintro ⟨rfl, rfl⟩; rfl⟩ <;>
  · apply BitVec.eq_of_getLsbD_eq
    intro k hk
    have hi := congrArg (fun x : BitVec 32 => x.getLsbD (k + 26)) h
    have lo := congrArg (fun x : BitVec 32 => x.getLsbD k) h
    simp only [BitVec.getLsbD_append] at hi lo
    interval_cases k <;> simp_all

/-- The pattern of an I-type row determines its opcode. -/
theorem iTypePattern_inj {a c : Code} : a ++ (0 : BitVec 26) = c ++ (0 : BitVec 26) ↔ a = c := by
  refine ⟨fun h => ?_, by rintro rfl; rfl⟩
  apply BitVec.eq_of_getLsbD_eq
  intro k hk
  have hi := congrArg (fun x : BitVec 32 => x.getLsbD (k + 26)) h
  simp only [BitVec.getLsbD_append] at hi
  interval_cases k <;> simp_all

/-- A word is its fields of the R-type layout, put together again. -/
theorem word_eq_fields (w : Word) :
    w = (fieldsOfWord w).opcode ++ (fieldsOfWord w).rs ++ (fieldsOfWord w).rt ++ (fieldsOfWord w).rd ++
      (fieldsOfWord w).sa ++ (fieldsOfWord w).funct := by
  apply BitVec.eq_of_getLsbD_eq
  intro k hk
  simp only [fieldsOfWord, BitVec.getLsbD_append, BitVec.getLsbD_extractLsb']
  interval_cases k <;> simp

/-- The bytes of a word, put together again in either order, are the word. -/
theorem wordOfBytes_big (w : Word) :
    wordOfBytes .big (w.extractLsb' 24 8) (w.extractLsb' 16 8) (w.extractLsb' 8 8) (w.extractLsb' 0 8) = w := by
  apply BitVec.eq_of_getLsbD_eq
  intro k hk
  simp only [wordOfBytes, BitVec.getLsbD_append, BitVec.getLsbD_extractLsb']
  interval_cases k <;> simp

theorem wordOfBytes_little (w : Word) :
    wordOfBytes .little (w.extractLsb' 0 8) (w.extractLsb' 8 8) (w.extractLsb' 16 8) (w.extractLsb' 24 8) = w :=
  wordOfBytes_big w

/-! ### The decoder -/

/-- The NOOP test, spelled out. -/
theorem Fields.allZero_eq_true {f : Fields} :
    f.allZero = true ↔ f.opcode = 0 ∧ f.funct = 0 ∧ f.rs = 0 ∧ f.rt = 0 ∧ f.rd = 0 ∧ f.sa = 0 ∧ f.imm = 0 := by
  simp [Fields.allZero, and_assoc]

theorem decode_allZero (p : Params) {f : Fields} (h : f.allZero = true) : decode p f = .ok .noop := by
  simp [decode, h, (Fields.allZero_eq_true.mp h).1]

theorem decode_rType (p : Params) {f : Fields} (h0 : f.opcode = 0) (h : f.allZero = false) :
    decode p f = decodeRType f := by
  simp [decode, h0, h]

theorem decode_iType (p : Params) {f : Fields} (h0 : f.opcode ≠ 0) : decode p f = decodeIType p f :=
  if_neg h0

/-- The error always carries the two codes as presented. -/
theorem decode_eq_error {p : Params} {f : Fields} {u : Unsupported} (h : decode p f = .error u) :
    u = f.unsupported := by
  simp only [decode, decodeRType, decodeIType, ifLogicalImm] at h
  repeat' split at h
  all_goals cases h
  all_goals rfl

/-- The decoder gives only instructions that the build has. -/
theorem decode_wellFormed {p : Params} {f : Fields} {i : Instr} (h : decode p f = .ok i) :
    i.wellFormed p = true := by
  simp only [decode, decodeRType, decodeIType, ifLogicalImm] at h
  repeat' split at h
  all_goals cases h
  all_goals simp_all [Instr.wellFormed, Instr.isLogicalImm]

end Sys2Proof
end

