-- ==== Sys2Proof/Laws/State.lean ====
section
/-! SUPPORT. One lemma per field and update of State, and the read-after-write laws of the register file. -/

namespace Sys2Proof.Machine

/-! ### Fields after an update -/

@[simp] theorem setReg_params (s : State) (d : RegIdx) (v : Word) : (s.setReg d v).params = s.params := rfl

@[simp] theorem setReg_input (s : State) (d : RegIdx) (v : Word) : (s.setReg d v).input = s.input := rfl

@[simp] theorem present_regs (s : State) (fs : List Fields) : (s.present fs).regs = s.regs := rfl

@[simp] theorem present_params (s : State) (fs : List Fields) : (s.present fs).params = s.params := rfl

@[simp] theorem present_input (s : State) (fs : List Fields) : (s.present fs).input = fs := rfl

@[simp] theorem present_present (s : State) (fs gs : List Fields) :
    (s.present fs).present gs = s.present gs := rfl

@[simp] theorem present_self (s : State) : s.present s.input = s := rfl

@[simp] theorem setReg_present (s : State) (d : RegIdx) (v : Word) (fs : List Fields) :
    (s.setReg d v).present fs = (s.present fs).setReg d v := rfl

@[simp] theorem launch_params (x : Vector Word 32) (p : Params) (fs : List Fields) :
    (State.launch x p fs).params = p := rfl

@[simp] theorem launch_input (x : Vector Word 32) (p : Params) (fs : List Fields) :
    (State.launch x p fs).input = fs := rfl

@[simp] theorem launch_reg (x : Vector Word 32) (p : Params) (fs : List Fields) (r : RegIdx) :
    (State.launch x p fs).reg r = x[r.toNat]'r.isLt := rfl

/-! ### Registers -/

@[simp] theorem present_reg (s : State) (fs : List Fields) (r : RegIdx) :
    (s.present fs).reg r = s.reg r := rfl

/-- A register write, read back at any index. -/
theorem setReg_reg (s : State) (d r : RegIdx) (v : Word) :
    (s.setReg d v).reg r = if r = d then v else s.reg r := by
  simp only [State.reg, State.setReg, Vector.getElem_set, BitVec.toNat_inj, eq_comm]

@[simp] theorem setReg_reg_same (s : State) (d : RegIdx) (v : Word) : (s.setReg d v).reg d = v := by
  simp [setReg_reg]

theorem setReg_reg_other (s : State) {d r : RegIdx} (v : Word) (h : r ≠ d) :
    (s.setReg d v).reg r = s.reg r := by
  simp [setReg_reg, h]

/-- Two states with the same registers, parameters and input are the same state. -/
theorem State.ext_reg {s t : State} (hr : ∀ r, s.reg r = t.reg r) (hp : s.params = t.params)
    (hi : s.input = t.input) : s = t := by
  obtain ⟨x, p, fs⟩ := s
  obtain ⟨y, q, gs⟩ := t
  have hxy : x = y := by
    refine Vector.ext fun i hlt => ?_
    have := hr (BitVec.ofNat 5 i)
    simpa [State.reg, Nat.mod_eq_of_lt hlt] using this
  simp_all

end Sys2Proof.Machine
end

