-- ==== Sys2Proof/Laws/Ops.lean ====
section
/-! SUPPORT. What each shared operation can do, once: the provers cite these and do not unfold the operations. -/

namespace Sys2Proof.Machine

/-- `writeBack` succeeds, with exactly the one register write. -/
theorem writeBack_eq (s : State) (d : RegIdx) (v : Word) : writeBack s d v = .next (s.setReg d v) := rfl

/-- `finish` succeeds and changes nothing. -/
theorem finish_eq (s : State) : finish s = .next s := rfl

/-- The error outcome is the one fault. -/
theorem raiseUnsupported_eq (u : Unsupported) :
    raiseUnsupported u = .fault (.unsupportedInstruction u.opcode u.funct) := rfl

theorem writePort_enabled (s : State) (d : RegIdx) (v : Word) : s.writePort true d v = s.setReg d v := rfl

theorem writePort_disabled (s : State) (d : RegIdx) (v : Word) : s.writePort false d v = s := rfl

/-- `fetch` takes the head of the input and leaves the rest. -/
theorem fetch_eq_some {s s' : State} {f : Fields} :
    fetch s = some (f, s') ↔ ∃ rest, s.input = f :: rest ∧ s' = s.present rest := by
  unfold fetch
  split
  · simp_all
  · rename_i g rest h
    simp only [Option.some.injEq, Prod.mk.injEq, h, List.cons.injEq]
    constructor
    · rintro ⟨rfl, rfl⟩
      exact ⟨rest, ⟨rfl, rfl⟩, rfl⟩
    · rintro ⟨_, ⟨rfl, rfl⟩, rfl⟩
      exact ⟨rfl, rfl⟩

theorem fetch_eq_none {s : State} : fetch s = none ↔ s.input = [] := by
  unfold fetch
  split <;> simp_all

end Sys2Proof.Machine
end

