-- ==== Sys2Proof/Laws/Exec.lean ====
section
/-! SUPPORT. What one instruction and one step can do: the inversion lemmas every frame and invariant follows from. -/

namespace Sys2Proof.Machine

/-- An instruction either has no destination and changes nothing, or makes exactly one register write, to its
destination. It never stops. -/
theorem exec_cases (i : Instr) (s : State) :
    (dest i = none ∧ exec i s = .next s) ∨ ∃ d v, dest i = some d ∧ exec i s = .next (s.setReg d v) := by
  cases i
  case noop => exact .inl ⟨rfl, rfl⟩
  all_goals exact .inr ⟨_, _, rfl, rfl⟩

/-- What a step that succeeds has done. -/
theorem step_eq_next {s t : State} (h : step s = .next t) :
    ∃ f rest i, s.input = f :: rest ∧ decode s.params f = .ok i ∧ exec i (s.present rest) = .next t := by
  unfold step at h
  split at h
  · cases h
  · rename_i f s' hf
    obtain ⟨rest, hin, rfl⟩ := fetch_eq_some.mp hf
    split at h
    · cases h
    · rename_i i hd
      exact ⟨f, rest, i, hin, hd, h⟩

/-- No step changes the build parameters (10_state.md R28). -/
theorem step_params {s t : State} (h : step s = .next t) : t.params = s.params := by
  obtain ⟨f, rest, i, -, -, hx⟩ := step_eq_next h
  obtain ⟨-, he⟩ | ⟨d, v, -, he⟩ := exec_cases i (s.present rest)
  all_goals
    rw [he] at hx
    cases hx
    rfl

end Sys2Proof.Machine
end

