-- ==== Sys2Proof/Laws/Operands.lean ====
section
/-! SUPPORT. The readings, extensions and operators of Machine/Operands.lean and Machine/Flags.lean in elementary
terms: bits, and sums modulo 2^32. -/

namespace Sys2Proof.Machine

/-- The signed reading is the unsigned one less 2^32 when bit 31 is set. -/
theorem signed_eq (x : Word) : signed x = (x.toNat : Int) - if x.getLsbD 31 then 2 ^ 32 else 0 := by
  simp only [signed, BitVec.toInt_eq_msb_cond, BitVec.msb_eq_getLsbD_last]
  split <;> simp

/-- The signed and unsigned readings agree modulo 2^32. -/
theorem signed_emod (x : Word) : signed x % 2 ^ 32 = unsigned x % 2 ^ 32 := by
  rw [signed_eq, unsigned]
  split <;> omega

/-- `word32 n` reads as `n` modulo 2^32. -/
theorem word32_toNat (n : Int) : ((word32 n).toNat : Int) = n % 2 ^ 32 := by
  simp only [word32, BitVec.toNat_ofInt]
  omega

/-- Integers equal modulo 2^32 wrap to one word. -/
theorem word32_congr {m n : Int} (h : m % 2 ^ 32 = n % 2 ^ 32) : word32 m = word32 n := by
  apply BitVec.eq_of_toNat_eq
  have hm := word32_toNat m
  have hn := word32_toNat n
  omega

theorem getLsbD_sext32 (v : Imm16) {k : Nat} (h : k < 32) :
    (sext32 v).getLsbD k = if k < 16 then v.getLsbD k else v.getLsbD 15 := by
  simp only [sext32, BitVec.getLsbD_signExtend, h, decide_true, Bool.true_and, BitVec.msb_eq_getLsbD_last]

theorem getLsbD_zext32 (v : Imm16) {k : Nat} (h : k < 32) :
    (zext32 v).getLsbD k = if k < 16 then v.getLsbD k else false := by
  simp only [zext32, BitVec.truncate_eq_setWidth, BitVec.getLsbD_setWidth, h, decide_true, Bool.true_and]
  split
  · rfl
  · exact BitVec.getLsbD_of_ge _ _ (by omega)

theorem registerShiftAmount_toNat (x : Word) : (registerShiftAmount x).toNat = x.toNat % 32 := by
  simp [registerShiftAmount]

theorem getLsbD_shiftLeft (p : Word) (a : ShiftAmount) {k : Nat} (h : k < 32) :
    (shiftLeft p a).getLsbD k = if a.toNat ≤ k then p.getLsbD (k - a.toNat) else false := by
  simp only [shiftLeft, BitVec.getLsbD_shiftLeft, h, decide_true, Bool.true_and]
  split <;> simp_all

theorem getLsbD_shiftRightLogical (p : Word) (a : ShiftAmount) (k : Nat) :
    (shiftRightLogical p a).getLsbD k = if k + a.toNat ≤ 31 then p.getLsbD (k + a.toNat) else false := by
  simp only [shiftRightLogical, BitVec.getLsbD_ushiftRight, Nat.add_comm a.toNat k]
  split
  · rfl
  · exact BitVec.getLsbD_of_ge _ _ (by omega)

theorem getLsbD_shiftRightArith (p : Word) (a : ShiftAmount) {k : Nat} (h : k < 32) :
    (shiftRightArith p a).getLsbD k = if k + a.toNat ≤ 31 then p.getLsbD (k + a.toNat) else p.getLsbD 31 := by
  have h1 : decide (32 ≤ k) = false := by simp; omega
  have h2 : k + a.toNat < 32 ↔ k + a.toNat ≤ 31 := by omega
  simp only [shiftRightArith, BitVec.getLsbD_sshiftRight, h1, Bool.not_false, Bool.true_and,
    BitVec.msb_eq_getLsbD_last, Nat.add_comm a.toNat k, h2]

theorem setLessSigned_eq (a b : Word) : setLessSigned a b = if signed a < signed b then 1 else 0 := by
  simp [setLessSigned, bool32]

theorem setLessUnsigned_eq (a b : Word) : setLessUnsigned a b = if unsigned a < unsigned b then 1 else 0 := by
  simp [setLessUnsigned, bool32]

end Sys2Proof.Machine
end

