-- ==== Sys2Proof/Laws/PerInstr.lean ====
section
/-! SUPPORT. The families of statements made instruction by instruction (LAWS.json). -/

/-! ### EncodesItsRow: an instruction's word lies in its own row of opcode_table.json -/

namespace Sys2Proof.Laws.EncodesItsRow

/-- Some row of the table has the instruction's mnemonic, and the encoded word matches that row. -/
def Statement (i : Instr) : Prop :=
  ∃ r ∈ opcodeRows, r.mnemonic = i.mnemonic ∧ encode i &&& r.mask = r.pattern

/-- An R-type word lies in a row that has the R-type mask and its function code. -/
theorem of_rType {i : Instr} {r : OpcodeRow} {rs rt rd : RegIdx} {sa : ShiftAmount} {funct : Code}
    (hr : r ∈ opcodeRows) (hm : r.mnemonic = i.mnemonic) (hk : r.mask = rTypeMask)
    (hp : r.pattern = (0 : BitVec 26) ++ funct) (he : encode i = rTypeWord rs rt rd sa funct) : Statement i :=
  ⟨r, hr, hm, by rw [he, hk, rTypeWord_and_mask, hp]⟩

/-- An I-type word lies in a row that has the I-type mask and its opcode. -/
theorem of_iType {i : Instr} {r : OpcodeRow} {rs rt : RegIdx} {imm : Imm16} {opcode : Code}
    (hr : r ∈ opcodeRows) (hm : r.mnemonic = i.mnemonic) (hk : r.mask = iTypeMask)
    (hp : r.pattern = opcode ++ (0 : BitVec 26)) (he : encode i = iTypeWord opcode rs rt imm) : Statement i :=
  ⟨r, hr, hm, by rw [he, hk, iTypeWord_and_mask, hp]⟩

theorem noop : Statement .noop :=
  ⟨⟨0x00000000, 0xFFFFFFFF, "NOOP", false⟩, by decide, rfl, by decide⟩

theorem sll (rd rt : RegIdx) (sa : ShiftAmount) : Statement (.sll rd rt sa) :=
  of_rType (r := ⟨0x00000000, rTypeMask, "SLL", false⟩) (by decide) rfl rfl (by decide) rfl

theorem srl (rd rt : RegIdx) (sa : ShiftAmount) : Statement (.srl rd rt sa) :=
  of_rType (r := ⟨0x00000002, rTypeMask, "SRL", false⟩) (by decide) rfl rfl (by decide) rfl

theorem sra (rd rt : RegIdx) (sa : ShiftAmount) : Statement (.sra rd rt sa) :=
  of_rType (r := ⟨0x00000003, rTypeMask, "SRA", false⟩) (by decide) rfl rfl (by decide) rfl

theorem sllv (rd rt rs : RegIdx) : Statement (.sllv rd rt rs) :=
  of_rType (r := ⟨0x00000004, rTypeMask, "SLLV", false⟩) (by decide) rfl rfl (by decide) rfl

theorem srlv (rd rt rs : RegIdx) : Statement (.srlv rd rt rs) :=
  of_rType (r := ⟨0x00000006, rTypeMask, "SRLV", false⟩) (by decide) rfl rfl (by decide) rfl

theorem add (rd rs rt : RegIdx) : Statement (.add rd rs rt) :=
  of_rType (r := ⟨0x00000020, rTypeMask, "ADD", false⟩) (by decide) rfl rfl (by decide) rfl

theorem addu (rd rs rt : RegIdx) : Statement (.addu rd rs rt) :=
  of_rType (r := ⟨0x00000021, rTypeMask, "ADDU", false⟩) (by decide) rfl rfl (by decide) rfl

theorem sub (rd rs rt : RegIdx) : Statement (.sub rd rs rt) :=
  of_rType (r := ⟨0x00000022, rTypeMask, "SUB", false⟩) (by decide) rfl rfl (by decide) rfl

theorem subu (rd rs rt : RegIdx) : Statement (.subu rd rs rt) :=
  of_rType (r := ⟨0x00000023, rTypeMask, "SUBU", false⟩) (by decide) rfl rfl (by decide) rfl

theorem and (rd rs rt : RegIdx) : Statement (.and rd rs rt) :=
  of_rType (r := ⟨0x00000024, rTypeMask, "AND", false⟩) (by decide) rfl rfl (by decide) rfl

theorem or (rd rs rt : RegIdx) : Statement (.or rd rs rt) :=
  of_rType (r := ⟨0x00000025, rTypeMask, "OR", false⟩) (by decide) rfl rfl (by decide) rfl

theorem xor (rd rs rt : RegIdx) : Statement (.xor rd rs rt) :=
  of_rType (r := ⟨0x00000026, rTypeMask, "XOR", false⟩) (by decide) rfl rfl (by decide) rfl

theorem slt (rd rs rt : RegIdx) : Statement (.slt rd rs rt) :=
  of_rType (r := ⟨0x0000002A, rTypeMask, "SLT", false⟩) (by decide) rfl rfl (by decide) rfl

theorem sltu (rd rs rt : RegIdx) : Statement (.sltu rd rs rt) :=
  of_rType (r := ⟨0x0000002B, rTypeMask, "SLTU", false⟩) (by decide) rfl rfl (by decide) rfl

theorem addi (rt rs : RegIdx) (imm : Imm16) : Statement (.addi rt rs imm) :=
  of_iType (r := ⟨0x20000000, iTypeMask, "ADDI", false⟩) (by decide) rfl rfl (by decide) rfl

theorem addiu (rt rs : RegIdx) (imm : Imm16) : Statement (.addiu rt rs imm) :=
  of_iType (r := ⟨0x24000000, iTypeMask, "ADDIU", false⟩) (by decide) rfl rfl (by decide) rfl

theorem slti (rt rs : RegIdx) (imm : Imm16) : Statement (.slti rt rs imm) :=
  of_iType (r := ⟨0x28000000, iTypeMask, "SLTI", false⟩) (by decide) rfl rfl (by decide) rfl

theorem sltiu (rt rs : RegIdx) (imm : Imm16) : Statement (.sltiu rt rs imm) :=
  of_iType (r := ⟨0x2C000000, iTypeMask, "SLTIU", false⟩) (by decide) rfl rfl (by decide) rfl

theorem andi (rt rs : RegIdx) (imm : Imm16) : Statement (.andi rt rs imm) :=
  of_iType (r := ⟨0x30000000, iTypeMask, "ANDI", true⟩) (by decide) rfl rfl (by decide) rfl

theorem ori (rt rs : RegIdx) (imm : Imm16) : Statement (.ori rt rs imm) :=
  of_iType (r := ⟨0x34000000, iTypeMask, "ORI", true⟩) (by decide) rfl rfl (by decide) rfl

theorem xori (rt rs : RegIdx) (imm : Imm16) : Statement (.xori rt rs imm) :=
  of_iType (r := ⟨0x38000000, iTypeMask, "XORI", true⟩) (by decide) rfl rfl (by decide) rfl

end Sys2Proof.Laws.EncodesItsRow
end

