-- ==== Sys2Proof/Laws/Run.lean ====
section
/-! SUPPORT. Runs one step at a time: the machine's own run, the registers that hold a value, supported fields. -/

namespace Sys2Proof.Machine

/-! ### The machine's own run -/

theorem core_run_succ_of_next {s t : State} (n : Nat) (h : step s = .next t) :
    Sys2Proof.core.run (n + 1) s = Sys2Proof.core.run n t := by
  have h' : Sys2Proof.core.step s = .next t := h
  simp only [Host.Core.run, h']

theorem core_run_succ_of_fault {s : State} {r : Fault} (n : Nat) (h : step s = .fault r) :
    Sys2Proof.core.run (n + 1) s = .fault r := by
  have h' : Sys2Proof.core.step s = .fault r := h
  simp only [Host.Core.run, h']

/-- One more step at the end of a run. -/
theorem core_run_succ_last {m : State} : ∀ (n : Nat) {s : State}, Sys2Proof.core.run n s = .next m →
    Sys2Proof.core.run (n + 1) s = step m
  | 0, _, h => by
    cases h
    have h' : Sys2Proof.core.step m = step m := rfl
    simp only [Host.Core.run, h']
    cases step m <;> rfl
  | n + 1, s, h => by
    cases hs : step s with
    | next t =>
      rw [core_run_succ_of_next _ hs] at h ⊢
      exact core_run_succ_last n h
    | fault r =>
      rw [core_run_succ_of_fault _ hs] at h
      cases h
    | refused r =>
      have hs' : Sys2Proof.core.step s = .refused r := hs
      simp only [Host.Core.run, hs'] at h
      cases h

/-! ### Registers that hold a value -/

theorem afterInstr_has (k : DefinedRegs) (i : Instr) (r : RegIdx) :
    (k.afterInstr i).has r = (k.has r || decide (dest i = some r)) := by
  unfold DefinedRegs.afterInstr
  cases h : dest i with
  | none => simp
  | some d =>
    simp only [DefinedRegs.has, Vector.getElem_set, BitVec.toNat_inj, Option.some.injEq]
    by_cases e : d = r <;> simp [e]

theorem perRegister_get {α : Type} (g : RegIdx → α) (r : RegIdx) : (perRegister g)[r.toNat]'r.isLt = g r := by
  simp [perRegister]

theorem defined_has (init : RegInit) (r : RegIdx) :
    init.defined.has r = (init[r.toNat]'r.isLt).isSome := by
  simp [RegInit.defined, DefinedRegs.has, perRegister_get]

theorem contents_get {init : RegInit} {r : RegIdx} {v : Word} (h : init[r.toNat]'r.isLt = some v) :
    init.contents[r.toNat]'r.isLt = v := by
  simp [RegInit.contents, perRegister_get, h]

theorem uninitRead_eq_none {k : DefinedRegs} {i : Instr} :
    uninitRead k i = none ↔ ∀ r ∈ readSet i, k.has r = true := by
  simp [uninitRead]

theorem uninitRead_eq_some {k : DefinedRegs} {i : Instr} {r : RegIdx} (h : uninitRead k i = some r) :
    r ∈ readSet i ∧ k.has r = false :=
  ⟨List.mem_of_find?_eq_some h, by simpa using List.find?_some h⟩

/-! ### Supported fields -/

theorem supported_eq_true {p : Params} {f : Fields} : supported p f = true ↔ ∃ i, decode p f = .ok i := by
  unfold supported
  cases decode p f <;> simp [Except.isOk, Except.toBool]

theorem supported_eq_false {p : Params} {f : Fields} :
    supported p f = false ↔ decode p f = .error f.unsupported := by
  unfold supported
  cases h : decode p f with
  | ok i => simp [Except.isOk, Except.toBool]
  | error u => simp [Except.isOk, Except.toBool, decode_eq_error h]

/-! ### The caller's run -/

/-- A run that ends `normal` had every step OK (70_reset_and_hazards.md R185) exactly when it reports no error. -/
theorem callerRun_reported_nil_iff (c : Bool) : ∀ (program : List Fields) (k : DefinedRegs) (s : State),
    (callerRun c program k s).cause = .normal →
      ((callerRun c program k s).reported = [] ↔ ∀ f ∈ program, supported s.params f = true)
  | [], k, s => fun _ => by simp [callerRun]
  | f :: rest, k, s => by
    intro h
    unfold callerRun at h ⊢
    cases hd : decode s.params f with
    | error u =>
      simp only [hd] at h ⊢
      have hs : supported s.params f = false := by rw [supported_eq_false, hd, decode_eq_error hd]
      cases c <;> simp_all [RunEnd.report]
    | ok i =>
      have hs : supported s.params f = true := supported_eq_true.mpr ⟨i, hd⟩
      simp only [hd] at h ⊢
      split at h
      · cases h
      · split at h <;> rename_i hstep
        · rw [callerRun_reported_nil_iff c rest _ _ h, step_params hstep]
          simp [hs]
        all_goals cases h

end Sys2Proof.Machine
end

