-- ==== Sys2Proof/Tests/Slice0.lean ====
section
/-! SUPPORT. The model's own tests. Expected results come from spec/95_test_vectors.md (the vector's name stands with
each test) or from the encoding strings of spec/opcode_table.json, never from the model. -/

namespace Sys2Proof.Tests

open Sys2Proof.Machine Sys2Proof.Spec

/-! ### Small states and field sets -/

/-- A state with these register values, every other register zero. -/
def withRegs (l : List (RegIdx × Word)) : State :=
  l.foldl (fun s x => s.setReg x.1 x.2) (State.launch (Vector.replicate 32 0) Params.default [])

/-- The same state in a build with `LOGICAL_IMM_EXT` = ZERO. -/
def zeroExtBuild (s : State) : State := { s with params := { s.params with logicalImmExt := .zero } }

/-- Register `r` in the next state, if there is one. -/
def regAfter (o : StepOutcome) (r : RegIdx) : Option Word :=
  match o with
  | .next t => some (t.reg r)
  | .fault _ | .refused _ => none

/-- The fault, if the outcome is one. -/
def faultOf (o : StepOutcome) : Option Fault :=
  match o with
  | .fault r => some r
  | .next _ | .refused _ => none

/-- One step of `s` with the fields `f` presented. -/
def stepOn (s : State) (f : Fields) : StepOutcome := step (s.present [f])

def noopFields : Fields := ⟨0, 0, 0, 0, 0, 0, 0⟩

/-! ### WellFormed smoke: the one check, with an ill-formed term for each of the three instructions it refuses -/

theorem test_wellFormed_refuses_absent_andi : Instr.wellFormed ⟨false, .sign⟩ (.andi 2 1 0x00FF) = false := by decide

theorem test_wellFormed_refuses_absent_ori : Instr.wellFormed ⟨false, .zero⟩ (.ori 2 1 0x00FF) = false := by decide

theorem test_wellFormed_refuses_absent_xori : Instr.wellFormed ⟨false, .sign⟩ (.xori 0 0 0) = false := by decide

theorem test_wellFormed_accepts_present_andi : Instr.wellFormed Params.default (.andi 2 1 0x00FF) = true := by decide

theorem test_wellFormed_accepts_addi_without_logical : Instr.wellFormed ⟨false, .sign⟩ (.addi 2 1 1) = true := by decide

/-! ### Decode: one word a constructor, written bit by bit from opcode_table.json's encoding strings
(opcode, then s, t, d, a or i as the string has them; an ignored field is filled with ones). -/

theorem test_decode_noop : decodeWord Params.default 0b00000000000000000000000000000000 = .ok .noop := by decide
theorem test_decode_sll : decodeWord Params.default 0b000000_11111_00001_00010_00011_000000 = .ok (.sll 2 1 3) := by decide
theorem test_decode_srl : decodeWord Params.default 0b000000_11111_00001_00010_00011_000010 = .ok (.srl 2 1 3) := by decide
theorem test_decode_sra : decodeWord Params.default 0b000000_11111_00001_00010_00011_000011 = .ok (.sra 2 1 3) := by decide
theorem test_decode_sllv : decodeWord Params.default 0b000000_00011_00001_00010_11111_000100 = .ok (.sllv 2 1 3) := by decide
theorem test_decode_srlv : decodeWord Params.default 0b000000_00011_00001_00010_11111_000110 = .ok (.srlv 2 1 3) := by decide
theorem test_decode_add : decodeWord Params.default 0b000000_00001_00011_00010_11111_100000 = .ok (.add 2 1 3) := by decide
theorem test_decode_addu : decodeWord Params.default 0b000000_00001_00011_00010_11111_100001 = .ok (.addu 2 1 3) := by decide
theorem test_decode_sub : decodeWord Params.default 0b000000_00001_00011_00010_11111_100010 = .ok (.sub 2 1 3) := by decide
theorem test_decode_subu : decodeWord Params.default 0b000000_00001_00011_00010_11111_100011 = .ok (.subu 2 1 3) := by decide
theorem test_decode_and : decodeWord Params.default 0b000000_00001_00011_00010_11111_100100 = .ok (.and 2 1 3) := by decide
theorem test_decode_or : decodeWord Params.default 0b000000_00001_00011_00010_11111_100101 = .ok (.or 2 1 3) := by decide
theorem test_decode_xor : decodeWord Params.default 0b000000_00001_00011_00010_11111_100110 = .ok (.xor 2 1 3) := by decide
theorem test_decode_slt : decodeWord Params.default 0b000000_00001_00011_00010_11111_101010 = .ok (.slt 2 1 3) := by decide
theorem test_decode_sltu : decodeWord Params.default 0b000000_00001_00011_00010_11111_101011 = .ok (.sltu 2 1 3) := by decide
theorem test_decode_addi : decodeWord Params.default 0b001000_00001_00010_1000000000000001 = .ok (.addi 2 1 0x8001) := by decide
theorem test_decode_addiu : decodeWord Params.default 0b001001_00001_00010_1000000000000001 = .ok (.addiu 2 1 0x8001) := by decide
theorem test_decode_slti : decodeWord Params.default 0b001010_00001_00010_1000000000000001 = .ok (.slti 2 1 0x8001) := by decide
theorem test_decode_sltiu : decodeWord Params.default 0b001011_00001_00010_1000000000000001 = .ok (.sltiu 2 1 0x8001) := by decide
theorem test_decode_andi : decodeWord Params.default 0b001100_00001_00010_1000000000000001 = .ok (.andi 2 1 0x8001) := by decide
theorem test_decode_ori : decodeWord Params.default 0b001101_00001_00010_1000000000000001 = .ok (.ori 2 1 0x8001) := by decide
theorem test_decode_xori : decodeWord Params.default 0b001110_00001_00010_1000000000000001 = .ok (.xori 2 1 0x8001) := by decide

/-- P1, step 2: the word, its instruction, and the word again. -/
theorem test_encode_P1_step2 : encode (.sll 1 1 16) = 0x00010C00 := by decide

/-- P2, step 9. -/
theorem test_encode_P2_step9 : encode (.sltiu 9 7 0xFFFF) = 0x2CE9FFFF := by decide

/-- V-D4 and V-D5: `sll $0, $0, 0` through `imm` or `rs`, never the NOOP word. -/
theorem test_decode_VD4_VD5 :
    decode Params.default ⟨0, 0, 0, 0, 0, 0, 0x0001⟩ = .ok (.sll 0 0 0) ∧
      decode Params.default ⟨0, 5, 0, 0, 0, 0, 0⟩ = .ok (.sll 0 0 0) := by decide

/-- V-D7 and V-D11: unsupported, with the two codes as presented. -/
theorem test_decode_VD7_VD11 :
    decode Params.default ⟨0x00, 3, 1, 2, 0, 0x07, 0⟩ = .error ⟨0x00, 0x07⟩ ∧
      decode Params.default ⟨0x23, 1, 2, 0, 0, 0x05, 0x0005⟩ = .error ⟨0x23, 0x05⟩ := by decide

/-- V-D14: ANDI where the build has no logical immediates. -/
theorem test_decode_VD14 : decode ⟨false, .sign⟩ ⟨0x0C, 1, 2, 0, 0, 0x00, 0x00FF⟩ = .error ⟨0x0C, 0x00⟩ := by decide

/-- A word cut short is refused by name, and the two fetch orders read the same bytes of `addi $2, $1, 0x0105`
(word 0x20220105) in opposite order. -/
theorem test_decodeBytes_truncated : decodeBytes Params.default .big [0x20, 0x22, 0x01] = .error .truncated := by decide

theorem test_decodeBytes_orders :
    decodeBytes Params.default .big [0x20, 0x22, 0x01, 0x05, 0xAA] = .ok (.addi 2 1 0x0105, [0xAA]) ∧
      decodeBytes Params.default .little [0x05, 0x01, 0x22, 0x20, 0xAA] = .ok (.addi 2 1 0x0105, [0xAA]) := by decide

/-- No two rows of the table overlap but NOOP's inside SLL's (30_encoding.md R62): on the bits both masks keep, the
patterns differ. -/
theorem test_opcodeRows_disjoint :
    (opcodeRows.tail).Pairwise (fun r q => r.pattern &&& (r.mask &&& q.mask) ≠ q.pattern &&& (r.mask &&& q.mask)) := by
  decide

/-- R62: 50 of the 64 function codes and 56 of the 63 non-zero opcodes are illegal. -/
theorem test_illegal_counts :
    ((List.range 64).filter fun n =>
        !supported Params.default ⟨0, 1, 0, 0, 0, BitVec.ofNat 6 n, 0⟩).length = 50 ∧
      ((List.range 64).filter fun n =>
        n ≠ 0 && !supported Params.default ⟨BitVec.ofNat 6 n, 0, 0, 0, 0, 0, 0⟩).length = 56 := by decide

/-! ### One step of each instruction (95_test_vectors.md, section 2) -/

theorem test_noop_VD1 : stepOn (withRegs [(1, 0xDEADBEEF)]) noopFields = .next (withRegs [(1, 0xDEADBEEF)]) := rfl
theorem test_sll_VS2 : regAfter (exec (.sll 2 1 1) (withRegs [(1, 0x80000001)])) 2 = some 0x00000002 := by decide
theorem test_sll_E2b : regAfter (stepOn (withRegs [(1, 0x11)]) ⟨0, 0, 1, 2, 3, 0, 0⟩) 2 = some 0x88 := by decide
theorem test_srl_VS6 : regAfter (exec (.srl 2 1 4) (withRegs [(1, 0x80000000)])) 2 = some 0x08000000 := by decide
theorem test_srl_VD17 : regAfter (stepOn (withRegs [(1, 8), (7, 0xFFFFFFFF)]) ⟨0, 7, 1, 2, 1, 2, 0x1042⟩) 2 = some 4 := by decide
theorem test_sra_VS8 : regAfter (exec (.sra 2 1 4) (withRegs [(1, 0x80000000)])) 2 = some 0xF8000000 := by decide
theorem test_sra_VS13 : regAfter (exec (.sra 2 1 31) (withRegs [(1, 0x7FFFFFFF)])) 2 = some 0x00000000 := by decide
theorem test_sllv_VS16 : regAfter (exec (.sllv 2 1 3) (withRegs [(1, 1), (3, 0x24)])) 2 = some 0x10 := by decide
theorem test_sllv_VS19 : regAfter (exec (.sllv 2 2 2) (withRegs [(2, 3)])) 2 = some 0x18 := by decide
theorem test_srlv_VS20 : regAfter (exec (.srlv 2 1 3) (withRegs [(1, 0x80000000), (3, 0xFFFFFFFF)])) 2 = some 1 := by decide
theorem test_srlv_VS22 : regAfter (exec (.srlv 2 1 3) (withRegs [(1, 0xF0000000), (3, 4)])) 2 = some 0x0F000000 := by decide
theorem test_add_VA2 : regAfter (exec (.add 2 1 3) (withRegs [(1, 0x7FFFFFFF), (3, 1)])) 2 = some 0x80000000 := by decide
theorem test_add_VD15 : regAfter (stepOn (withRegs [(1, 2), (3, 3)]) ⟨0, 1, 3, 2, 5, 0x20, 0x1160⟩) 2 = some 5 := by decide
theorem test_addu_VA6 : regAfter (exec (.addu 2 1 3) (withRegs [(1, 0xFFFFFFFF), (3, 1)])) 2 = some 0 := by decide
theorem test_addu_E1 : regAfter (exec (.addu 1 0 0) (withRegs [(0, 5)])) 1 = some 10 := by decide
theorem test_sub_VA8 : regAfter (exec (.sub 2 1 3) (withRegs [(1, 10), (3, 3)])) 2 = some 7 := by decide
theorem test_sub_VA10 : regAfter (exec (.sub 2 1 3) (withRegs [(1, 0), (3, 0x80000000)])) 2 = some 0x80000000 := by decide
theorem test_subu_VA12 : regAfter (exec (.subu 2 1 3) (withRegs [(1, 0), (3, 1)])) 2 = some 0xFFFFFFFF := by decide
theorem test_subu_VA13 : regAfter (exec (.subu 2 1 3) (withRegs [(1, 0x08000000), (3, 0xF8000000)])) 2 = some 0x10000000 := by decide
theorem test_and_VA14 : regAfter (exec (.and 2 1 3) (withRegs [(1, 0xF0F0F0F0), (3, 0xFF00FF00)])) 2 = some 0xF000F000 := by decide
theorem test_or_VA16 : regAfter (exec (.or 2 1 3) (withRegs [(1, 0xF0F0F0F0), (3, 0xFF00FF00)])) 2 = some 0xFFF0FFF0 := by decide
theorem test_xor_VA18 : regAfter (exec (.xor 2 1 3) (withRegs [(1, 0xF0F0F0F0), (3, 0xFF00FF00)])) 2 = some 0x0FF00FF0 := by decide
theorem test_xor_VA19 : regAfter (exec (.xor 0 0 0) (withRegs [(0, 0xCAFEF00D)])) 0 = some 0 := by decide
theorem test_slt_VA20 : regAfter (exec (.slt 2 1 3) (withRegs [(1, 0xFFFFFFFF), (3, 1)])) 2 = some 1 := by decide
theorem test_slt_VA28 : regAfter (exec (.slt 1 1 3) (withRegs [(1, 0xFFFFFFFE), (3, 0)])) 1 = some 1 := by decide
theorem test_sltu_VA24 : regAfter (exec (.sltu 2 1 3) (withRegs [(1, 0xFFFFFFFF), (3, 1)])) 2 = some 0 := by decide
theorem test_sltu_VA25 : regAfter (exec (.sltu 2 1 3) (withRegs [(1, 1), (3, 0xFFFFFFFF)])) 2 = some 1 := by decide
theorem test_addi_VI3 : regAfter (exec (.addi 2 1 0x8000) (withRegs [(1, 0)])) 2 = some 0xFFFF8000 := by decide
theorem test_addi_VD18 : regAfter (stepOn (withRegs []) ⟨8, 0, 0, 0, 0, 0, 5⟩) 0 = some 5 := by decide
theorem test_addiu_VI6 : regAfter (exec (.addiu 2 1 0xFFFB) (withRegs [(1, 5)])) 2 = some 0 := by decide
theorem test_addiu_VI8 : regAfter (exec (.addiu 2 1 0x8000) (withRegs [(1, 0x00010000)])) 2 = some 0x8000 := by decide
theorem test_slti_VI11 : regAfter (exec (.slti 2 1 0x8000) (withRegs [(1, 0xFFFF7FFF)])) 2 = some 1 := by decide
theorem test_slti_VI13 : regAfter (exec (.slti 2 1 1) (withRegs [(1, 0x7FFFFFFF)])) 2 = some 0 := by decide
theorem test_sltiu_VI14 : regAfter (exec (.sltiu 2 1 1) (withRegs [(1, 0xFFFFFFFF)])) 2 = some 0 := by decide
theorem test_sltiu_VI17 : regAfter (exec (.sltiu 2 1 0x8000) (withRegs [(1, 0x80000000)])) 2 = some 1 := by decide
theorem test_andi_VI21 : regAfter (exec (.andi 2 1 0x8F0F) (withRegs [(1, 0x12345678)])) 2 = some 0x12340608 := by decide
theorem test_andi_VI22 : regAfter (exec (.andi 2 1 0x8F0F) (zeroExtBuild (withRegs [(1, 0x12345678)]))) 2 = some 0x608 := by decide
theorem test_ori_VI24 : regAfter (exec (.ori 2 1 0x8F0F) (withRegs [(1, 0x12345678)])) 2 = some 0xFFFFDF7F := by decide
theorem test_ori_VI25 : regAfter (exec (.ori 2 1 0x8F0F) (zeroExtBuild (withRegs [(1, 0x12345678)]))) 2 = some 0x1234DF7F := by decide
theorem test_xori_VI27 : regAfter (exec (.xori 2 1 0x8F0F) (withRegs [(1, 0x12345678)])) 2 = some 0xEDCBD977 := by decide
theorem test_xori_VI28 : regAfter (exec (.xori 2 1 0x8F0F) (zeroExtBuild (withRegs [(1, 0x12345678)]))) 2 = some 0x1234D977 := by decide

/-! ### The error, the ports, the caller -/

/-- E6, second case. -/
theorem test_unsupported_E6 :
    faultOf (stepOn (withRegs [(1, 1), (2, 2), (3, 3)]) ⟨0, 1, 2, 3, 4, 0x3F, 0x193F⟩) =
      some (.unsupportedInstruction 0x00 0x3F) := by decide

/-- V-D4 at the ports: `we = 1, waddr = 0, wdata = 0x0000CAFE`. -/
theorem test_ports_VD4 :
    let o := (withRegs [(0, 0xCAFE)]).outputs ⟨0, 0, 0, 0, 0, 0, 1⟩
    o.we = true ∧ o.waddr = 0 ∧ o.wdata = 0xCAFE := by decide

/-- 60_exceptions.md R166: an unsupported instruction reports its own error, not an unset register; an `add` that reads
an unset register is the model fault. -/
theorem test_callerRun_uninit :
    (callerRun false [⟨0, 1, 2, 3, 0, 0x07, 0⟩] (Vector.replicate 32 false) (withRegs [])).cause =
        .fault (.unsupportedInstruction 0x00 0x07) ∧
      (callerRun false [⟨0, 1, 2, 3, 0, 0x20, 0⟩] (Vector.replicate 32 false) (withRegs [])).cause =
        .modelFault (.uninitRead 1) := by decide

/-- 10_state.md R32 and R20: a launch with x[1] = 3 alone runs `addu $1, $1, $1` (40_dispatch.md R86's example), and
stops at `add $2, $1, $5` on the unset register 5 with x[1] = 6. -/
theorem test_launchRun_unset :
    let e := launchRun false ((Vector.replicate 32 none).set 1 (some 3)) Params.default
      [⟨0, 1, 1, 1, 0, 0x21, 0x0821⟩, ⟨0, 1, 5, 2, 0, 0x20, 0x1020⟩]
    e.cause = .modelFault (.uninitRead 5) ∧ e.state.reg 1 = 6 ∧ e.defined.has 1 = true ∧ e.defined.has 2 = false := by
  decide

/-- 70_reset_and_hazards.md R181: `xor $0, $0, $0` gives x[0] = 0 only where x[0] already holds a value. -/
theorem test_launchRun_xor_zero :
    (launchRun false (Vector.replicate 32 none) Params.default [⟨0, 0, 0, 0, 0, 0x26, 0x0026⟩]).cause =
        .modelFault (.uninitRead 0) ∧
      (launchRun false (Vector.replicate 32 (some 9)) Params.default [⟨0, 0, 0, 0, 0, 0x26, 0x0026⟩]).state.reg 0 = 0 := by
  decide

/-- R32, R168 and R185 with `CONTINUE_ON_ERROR`: from x[1] = 3 alone, `addu $2, $1, $1` writes the unset register 2, the
unsupported function code 63 is reported and passed over, and `addu $3, $2, $2` reads register 2, which now has a
value. -/
theorem test_callerRun_continues :
    let e := launchRun true ((Vector.replicate 32 none).set 1 (some 3)) Params.default
      [⟨0, 1, 1, 2, 0, 0x21, 0x1021⟩, ⟨0, 0, 0, 0, 0, 63, 63⟩, ⟨0, 2, 2, 3, 0, 0x21, 0x1821⟩]
    e.cause = .normal ∧ e.state.reg 3 = 12 ∧ e.reported = [⟨0, 63⟩] ∧ e.defined.has 2 = true ∧
      e.defined.has 3 = true ∧ e.defined.has 4 = false := by
  decide

/-- The word the host places is what the first step after reset runs: P1, step 1. -/
theorem test_withFetchWord_P1 :
    regAfter (step (State.reset.withFetchWord 32 0x24011234)) 1 = some 0x1234 := by decide

theorem test_decodeTableWord_P1 : decodeTableWord 32 0x24011234 = some (.addiu 1 0 0x1234) := by decide

/-! ### Witnesses: concrete states and operands that meet the hypotheses of each statement that has any -/

/-- NoopReadsAndWritesNothing: both sides of its NOOP test, and `imm` alone non-zero. -/
theorem witness_NoopReadsAndWritesNothing :
    AllZero noopFields ∧ ¬ AllZero ⟨0, 0, 0, 0, 0, 0, 1⟩ ∧ ¬ AllZero ⟨0, 5, 0, 0, 0, 0, 0⟩ ∧
      ((⟨0, 0, 0, 0, 0, 0, 1⟩ : Fields).imm ≠ 0) := by
  simp only [AllZero]; decide

/-- The R-type encodings named by the result statements: opcode 0 with each function code, at the all-ones values of
the ignored fields, and SLL's field set that is not NOOP's. -/
theorem witness_RTypeIs :
    ∀ c ∈ [0x02, 0x03, 0x04, 0x06, 0x20, 0x21, 0x22, 0x23, 0x24, 0x25, 0x26, 0x2A, (0x2B : Code)],
      (⟨0, 31, 31, 31, 31, c, 0xFFFF⟩ : Fields).opcode = 0 ∧ (⟨0, 31, 31, 31, 31, c, 0xFFFF⟩ : Fields).funct = c ∧
        supported Params.default ⟨0, 31, 31, 31, 31, c, 0xFFFF⟩ = true := by decide

/-- The I-type encodings named by the result statements. -/
theorem witness_ITypeIs :
    ∀ c ∈ [0x08, 0x09, 0x0A, (0x0B : Code)],
      (⟨c, 31, 31, 31, 31, 63, 0xFFFF⟩ : Fields).opcode = c ∧
        supported ⟨false, .zero⟩ ⟨c, 31, 31, 31, 31, 63, 0xFFFF⟩ = true := by decide

/-- SllAndSrlFillWithZeros: SLL's premise. -/
theorem witness_SllAndSrlFillWithZeros :
    (⟨0, 0, 1, 2, 3, 0, 0⟩ : Fields).opcode = 0 ∧ (⟨0, 0, 1, 2, 3, 0, 0⟩ : Fields).funct = 0 ∧
      ¬ AllZero ⟨0, 0, 1, 2, 3, 0, 0⟩ := by simp only [AllZero]; decide

/-- SraFillsWithTheSignBit: a source with sign bit 0. -/
theorem witness_SraFillsWithTheSignBit : ((withRegs [(1, 0x7F00FF00)]).reg 1).getLsbD 31 = false := by decide

/-- LogicalImmediatesFollowTheBuildParameters: a build with them and one without. -/
theorem witness_LogicalImmediatesFollowTheBuildParameters :
    (Params.default.hasLogicalImm = true ∧ (⟨0x0C, 1, 2, 0, 0, 0, 0xFF⟩ : Fields).opcode = 0x0C ∧
      (⟨0x0D, 1, 2, 0, 0, 0, 0xFF⟩ : Fields).opcode = 0x0D ∧ (⟨0x0E, 1, 2, 0, 0, 0, 0xFF⟩ : Fields).opcode = 0x0E) ∧
      (⟨false, .sign⟩ : Params).hasLogicalImm = false := by decide

/-- LogicalImmediatesAgreeWhenBit15IsClear: the boundary immediate, in two builds. -/
theorem witness_LogicalImmediatesAgreeWhenBit15IsClear :
    (0x7FFF : Imm16).getLsbD 15 = false ∧
      (withRegs [(1, 0x12345678)]).regs = (zeroExtBuild (withRegs [(1, 0x12345678)])).regs ∧
      Instr.andi 2 1 0x7FFF = .andi 2 1 0x7FFF := ⟨by decide, rfl, rfl⟩

/-- ResultDependsOnlyOnTheReadSet: two states that differ outside the read set of `add $2, $1, $3`, and port data that
differs on the port SLL ignores. -/
theorem witness_ResultDependsOnlyOnTheReadSet :
    ((withRegs [(1, 7), (4, 1)]).params = (withRegs [(1, 7), (4, 2)]).params ∧
      (∀ r ∈ readSet (.add 2 1 3), (withRegs [(1, 7), (4, 1)]).reg r = (withRegs [(1, 7), (4, 2)]).reg r) ∧
      dest (.add 2 1 3) = some 2) ∧
    decode Params.default ⟨0, 9, 1, 2, 3, 0, 0⟩ = .ok (.sll 2 1 3) ∧ ¬ ((9 : RegIdx) ∈ readSet (.sll 2 1 3)) ∧
      (block Params.default ⟨0, 9, 1, 2, 3, 0, 0⟩ 5 6).we = true := by decide

/-- RegisterZeroBehavesLikeAnyOther: the renaming that adds 1 moves register 0 to register 1. -/
theorem witness_RegisterZeroBehavesLikeAnyOther :
    Function.Injective (fun r : RegIdx => r + 1) ∧
      (∀ r : RegIdx, (withRegs [(1, 9)]).reg (r + 1) = (withRegs [(0, 9)]).reg r) := by
  refine ⟨fun a b h => by simpa using h, by decide⟩

/-- RegisterWritesAreIdempotentAndCommute: two different registers, 0 among them. -/
theorem witness_RegisterWritesAreIdempotentAndCommute : (0 : RegIdx) ≠ 31 := by decide

/-- NoHiddenStateIsObservable: two states that differ in the input alone, and an instruction that does not read its
destination. -/
theorem witness_NoHiddenStateIsObservable :
    ((withRegs [(1, 5)]).regs = ((withRegs [(1, 5)]).present [noopFields]).regs ∧
      (withRegs [(1, 5)]).params = ((withRegs [(1, 5)]).present [noopFields]).params) ∧
      ∀ d, dest (.xor 2 1 3) = some d → d ∉ readSet (.xor 2 1 3) := by
  refine ⟨⟨rfl, rfl⟩, ?_⟩
  decide

/-- ReadsSeeEarlierWritesAndNotTheStepsOwn, first and second clauses: a run of one step with a second instruction
still presented, and an instruction with a destination. -/
theorem witness_ReadsSeeEarlierWrites_run :
    ∃ m : State, Sys2Proof.core.run 1 ((withRegs []).present [noopFields, ⟨8, 0, 0, 0, 0, 0, 5⟩]) = .next m ∧
      m.input = [⟨8, 0, 0, 0, 0, 0, 5⟩] ∧ decode m.params ⟨8, 0, 0, 0, 0, 0, 5⟩ = .ok (.addi 0 0 5) ∧
      dest (.addi 0 0 5) = some 0 :=
  ⟨_, rfl, rfl, rfl, rfl⟩

/-- ReadsSeeEarlierWritesAndNotTheStepsOwn, last clause: `addu $1, $1, $1` then `or $2, $1, $1`. -/
theorem witness_ReadsSeeEarlierWritesAndNotTheStepsOwn :
    let s := (withRegs [(1, 3)]).present [⟨0, 1, 1, 1, 0, 0x21, 0x0821⟩, ⟨0, 1, 1, 2, 0, 0x25, 0x1025⟩]
    s.input = ⟨0, 1, 1, 1, 0, 0x21, 0x0821⟩ :: ⟨0, 1, 1, 2, 0, 0x25, 0x1025⟩ :: [] ∧
      decode s.params ⟨0, 1, 1, 1, 0, 0x21, 0x0821⟩ = .ok (.addu 1 1 1) ∧
      decode s.params ⟨0, 1, 1, 2, 0, 0x25, 0x1025⟩ = .ok (.or 2 1 1) := by decide

/-- UnusedRTypeFieldsAreIgnored: SRL with two values of `rs`, and ADD with two values of `sa`. -/
theorem witness_UnusedRTypeFieldsAreIgnored :
    (¬ AllZero ⟨0, 7, 1, 2, 3, 2, 0⟩ ∧ ¬ AllZero ⟨0, 0, 1, 2, 3, 2, 9⟩ ∧ UsesShiftAmount 2) ∧
      (¬ AllZero ⟨0, 1, 3, 2, 5, 0x20, 0⟩ ∧ ¬ AllZero ⟨0, 1, 3, 2, 0, 0x20, 0⟩ ∧ ¬ UsesShiftAmount 0x20) := by
  simp only [AllZero, UsesShiftAmount]; decide

/-- ITypeIsChosenByOpcodeAlone: V-D16's fields beside their plain form, and an unsupported opcode. -/
theorem witness_ITypeIsChosenByOpcodeAlone :
    decode Params.default ⟨8, 1, 2, 31, 31, 0x3F, 1⟩ = .ok (.addi 2 1 1) ∧
      decode Params.default ⟨8, 1, 2, 0, 0, 0, 1⟩ = .ok (.addi 2 1 1) ∧
      decode Params.default ⟨0x0F, 0, 1, 0, 0, 0x11, 0x1234⟩ = .error ⟨0x0F, 0x11⟩ := by decide

/-- IllegalEncodingsRaiseUnsupportedInstruction: each clause of the list at its boundary values, and the legal codes
beside them. -/
theorem witness_Illegal :
    (∀ n ∈ [0x01, 0x05, 0x07, 0x08, 0x1F, 0x27, 0x29, 0x2C, 0x3F],
      Illegal Params.default ⟨0, 0, 0, 0, 0, BitVec.ofNat 6 n, 0⟩) ∧
    (∀ n ∈ [0x00, 0x02, 0x04, 0x06, 0x20, 0x26, 0x2A, 0x2B],
      ¬ Illegal Params.default ⟨0, 0, 0, 0, 0, BitVec.ofNat 6 n, 0⟩) ∧
    (∀ n ∈ [0x01, 0x07, 0x0F, 0x3F], Illegal Params.default ⟨BitVec.ofNat 6 n, 0, 0, 0, 0, 0, 0⟩) ∧
    (∀ n ∈ [0x08, 0x0B, 0x0C, 0x0E], ¬ Illegal Params.default ⟨BitVec.ofNat 6 n, 0, 0, 0, 0, 0, 0⟩) ∧
    (∀ n ∈ [0x0C, 0x0E], Illegal ⟨false, .sign⟩ ⟨BitVec.ofNat 6 n, 0, 0, 0, 0, 0, 0⟩) := by
  simp [Illegal, Params.default]

/-- OnlyTheNoopTestSeesTheRTypeImmediate: the two field sets whose decoding differs. -/
theorem witness_OnlyTheNoopTestSeesTheRTypeImmediate :
    noopFields.opcode = 0 ∧ decode Params.default noopFields ≠ decode Params.default { noopFields with imm := 1 } := by
  decide

/-- EncodeThenDecodeGivesTheInstructionBack: well-formed instructions in both builds, the awkward SLL among them. -/
theorem witness_EncodeThenDecodeGivesTheInstructionBack :
    Instr.wellFormed Params.default (.xori 31 0 0xFFFF) = true ∧ Instr.wellFormed ⟨false, .sign⟩ (.sll 0 0 0) = true ∧
      decodeWord ⟨false, .sign⟩ (encode (.sll 0 0 0)) = .ok (.sll 0 0 0) := by decide

/-- DecoderAgreesWithTheOpcodeTable: a word with a row and a word with none. -/
theorem witness_DecoderAgreesWithTheOpcodeTable :
    decodeWord Params.default 0x00432026 = .ok (.xor 4 2 3) ∧
      decodeWord Params.default 0x0000003F = .error ⟨0, 0x3F⟩ := by decide

/-- StepRunsTheDecodedInstruction, UnsupportedIsRaisedExactlyWhenDecodeFails,
IllegalEncodingsRaiseUnsupportedInstruction: a presented instruction of each kind. -/
theorem witness_presented_instruction :
    ((withRegs []).present [⟨0, 1, 3, 2, 0, 0x20, 0⟩]).input = ⟨0, 1, 3, 2, 0, 0x20, 0⟩ :: [] ∧
      decode (withRegs []).params ⟨0, 1, 3, 2, 0, 0x20, 0⟩ = .ok (.add 2 1 3) ∧
      decode (withRegs []).params ⟨0, 1, 3, 2, 0, 0x27, 0⟩ = .error ⟨0, 0x27⟩ := by decide

/-- WordPlacedNextIsTheInstructionRun: from the reset state. -/
theorem witness_WordPlacedNextIsTheInstructionRun :
    (0x24011234 : Nat) < 2 ^ 32 ∧ State.reset.params = Params.default ∧
      decodeTableWord 32 0x24011234 = some (.addiu 1 0 0x1234) := by decide

/-- UntouchedRegistersAndBuildAreInvariant: a state with an instruction still to present, a register outside its
destination, and a step that succeeds. -/
theorem witness_UntouchedRegistersAndBuildAreInvariant :
    ∃ t, Untouched Params.default (fun r => r = 0) (fun _ => 9)
        ((withRegs [(0, 9), (1, 2)]).present [⟨8, 1, 2, 0, 0, 0, 1⟩]) ∧
      step ((withRegs [(0, 9), (1, 2)]).present [⟨8, 1, 2, 0, 0, 0, 1⟩]) = .next t := by
  refine ⟨_, ⟨rfl, fun r hr => by subst hr; decide, fun f hf i hi d hd => ?_⟩, rfl⟩
  obtain rfl : f = ⟨8, 1, 2, 0, 0, 0, 1⟩ := List.mem_singleton.mp hf
  obtain rfl : Instr.addi 2 1 1 = i := Except.ok.inj hi
  obtain rfl : (2 : RegIdx) = d := Option.some.inj hd
  decide

/-- UntouchedHoldsAtLaunchAndReset: a program that does not write register 0. -/
theorem witness_UntouchedHoldsAtLaunchAndReset :
    ∀ f ∈ [(⟨8, 1, 2, 0, 0, 0, 1⟩ : Fields)], ∀ i, decode Params.default f = .ok i → ∀ d, dest i = some d → ¬ d = 0 := by
  intro f hf i hi d hd
  obtain rfl : f = ⟨8, 1, 2, 0, 0, 0, 1⟩ := List.mem_singleton.mp hf
  obtain rfl : Instr.addi 2 1 1 = i := Except.ok.inj hi
  obtain rfl : (2 : RegIdx) = d := Option.some.inj hd
  decide

/-- SupportedProgramsRunToTheirEnd: a supported program of two steps. -/
theorem witness_SupportedProgramsRunToTheirEnd :
    ((withRegs []).present [noopFields, ⟨8, 0, 0, 0, 0, 0, 5⟩]).allSupported = true := by decide

/-- RunStopsAtTheFirstUnsupportedInstruction: one supported step, then function code 63, then one more. -/
theorem witness_RunStopsAtTheFirstUnsupportedInstruction :
    let s := (withRegs []).present [noopFields, ⟨0, 0, 0, 0, 0, 63, 63⟩, noopFields]
    s.input = [noopFields] ++ ⟨0, 0, 0, 0, 0, 63, 63⟩ :: [noopFields] ∧
      (∀ g ∈ [noopFields], supported s.params g = true) ∧ supported s.params ⟨0, 0, 0, 0, 0, 63, 63⟩ = false := by decide

/-- StepsAfterAnErrorRunAsWithoutIt: a list of unsupported field sets. -/
theorem witness_StepsAfterAnErrorRunAsWithoutIt :
    ∀ g ∈ [(⟨0, 0, 0, 0, 0, 63, 63⟩ : Fields), ⟨2, 0, 0, 0, 0, 0, 0⟩], supported (withRegs []).params g = false := by
  decide

/-- RunDoesNotDependOnUnsetRegisters: two states that differ in a register without a value alone. -/
theorem witness_RunDoesNotDependOnUnsetRegisters :
    (withRegs [(5, 1)]).params = (withRegs [(5, 2)]).params ∧
      ∀ r, DefinedRegs.has ((Vector.replicate 32 true).set 5 false) r = true →
        (withRegs [(5, 1)]).reg r = (withRegs [(5, 2)]).reg r := by decide

/-- ModelFaultExactlyOnReadingAnUnsetRegister: an operation that reads an unset register, one that does not, and an
unsupported one. -/
theorem witness_ModelFaultExactlyOnReadingAnUnsetRegister :
    let k : DefinedRegs := (Vector.replicate 32 true).set 5 false
    (decode Params.default ⟨0, 5, 1, 2, 0, 0x20, 0⟩ = .ok (.add 2 5 1) ∧ Reads (.add 2 5 1) 5 ∧ k.has 5 = false) ∧
      (decode Params.default ⟨0, 1, 1, 5, 0, 0x20, 0⟩ = .ok (.add 5 1 1) ∧
        ∀ r, Reads (.add 5 1 1) r → k.has r = true) ∧
      decode Params.default ⟨0, 5, 5, 5, 0, 0x27, 0⟩ = .error ⟨0, 0x27⟩ := by
  simp only [Reads]; decide

/-- EveryInstructionCompletesAndWritesOnlyItsDestination: a register that is no destination, for an instruction that
writes and for NOOP. -/
theorem witness_EveryInstructionCompletesAndWritesOnlyItsDestination :
    ¬ Writes (.sll 2 1 3) 1 ∧ ¬ Writes .noop 0 := by simp only [Writes]; decide

/-- FullyInitialisedLaunchesNeverModelFault: a launch that gives one register a value, and the launch of programs P1 and P2, every register 0. -/
theorem witness_FullyInitialisedLaunchesNeverModelFault :
    ((Vector.replicate 32 none).set 1 (some 3) : RegInit)[(1 : RegIdx).toNat] = some 3 ∧
      ∀ r : RegIdx, ((Vector.replicate 32 (some 0) : RegInit)[r.toNat]'r.isLt).isSome = true := by decide

/-- PortsCarryTheOneWriteOrTheError: a recognised instruction other than NOOP. -/
theorem witness_PortsCarryTheOneWriteOrTheError :
    decode Params.default ⟨0, 0, 0, 0, 0, 0, 1⟩ = .ok (.sll 0 0 0) ∧ Instr.sll 0 0 0 ≠ .noop := by decide

end Sys2Proof.Tests
end

section
/-! SUPPORT. Frame, dependence and renaming of one instruction, the equations of the caller's run, and the
statements about the machine's state. -/

namespace Sys2Proof.Machine

open Sys2Proof.Spec

/-! ### R84's table -/

/-- The model's read sets are the "Read set" column of R84's table. -/
theorem mem_readSet {i : Instr} {r : RegIdx} : r ∈ readSet i ↔ Reads i r := by
  cases i <;> simp [readSet, Reads]

/-- The model's destinations are the "Destination" column of R84's table. -/
theorem dest_eq_some {i : Instr} {r : RegIdx} : dest i = some r ↔ Writes i r := by
  cases i <;> simp [dest, Writes, eq_comm]

@[simp] theorem renameRegs_id (i : Instr) : renameRegs id i = i := by
  cases i <;> rfl

/-! ### One instruction -/

/-- Only the last of two writes to one register counts. -/
@[simp] theorem setReg_setReg_same (s : State) (d : RegIdx) (v w : Word) :
    (s.setReg d v).setReg d w = s.setReg d w := by
  refine State.ext_reg (fun r => ?_) rfl rfl
  by_cases h : r = d <;> simp [setReg_reg, h]

/-- Every instruction answers a next state (R85, R163). -/
theorem exec_completes (i : Instr) (s : State) : ∃ t, exec i s = .next t := by
  obtain ⟨-, h⟩ | ⟨d, v, -, h⟩ := exec_cases i s
  · exact ⟨_, h⟩
  · exact ⟨_, h⟩

/-- An instruction keeps the build, the caller's input and every register but its destination (R85). -/
theorem exec_frame {i : Instr} {s t : State} (h : exec i s = .next t) :
    t.params = s.params ∧ t.input = s.input ∧ ∀ r, dest i ≠ some r → t.reg r = s.reg r := by
  obtain ⟨-, he⟩ | ⟨d, v, hd, he⟩ := exec_cases i s
  all_goals
    rw [he] at h
    cases h
  · exact ⟨rfl, rfl, fun _ _ => rfl⟩
  · exact ⟨rfl, rfl, fun r hr => setReg_reg_other s v fun e => hr (e ▸ hd)⟩

/-- Where the renamed read set holds the same words, the renamed instruction writes the same word to the renamed
destination. -/
theorem exec_renameRegs (π : RegIdx → RegIdx) (i : Instr) {s s' : State} (hp : s'.params = s.params)
    (hr : ∀ r ∈ readSet i, s'.reg (π r) = s.reg r) :
    (dest i = none ∧ exec i s = .next s ∧ exec (renameRegs π i) s' = .next s') ∨
      ∃ d v, dest i = some d ∧ exec i s = .next (s.setReg d v) ∧
        exec (renameRegs π i) s' = .next (s'.setReg (π d) v) := by
  cases i
  case noop => exact .inl ⟨rfl, rfl, rfl⟩
  all_goals
    refine .inr ⟨_, _, rfl, rfl, ?_⟩
    simp only [readSet, List.forall_mem_cons] at hr
    simp only [← hr, ← hp]
    rfl

/-- What an instruction writes depends on its read set and the build alone (R84). -/
theorem exec_congr (i : Instr) {s s' : State} (hp : s'.params = s.params)
    (hr : ∀ r ∈ readSet i, s'.reg r = s.reg r) :
    (dest i = none ∧ exec i s = .next s ∧ exec i s' = .next s') ∨
      ∃ d v, dest i = some d ∧ exec i s = .next (s.setReg d v) ∧ exec i s' = .next (s'.setReg d v) := by
  simpa using exec_renameRegs id i hp hr

/-- An instruction that does not read its own destination repeats its write. -/
theorem exec_again {i : Instr} {s t : State} (hi : ∀ d, dest i = some d → d ∉ readSet i)
    (h : exec i s = .next t) : exec i t = .next t := by
  obtain ⟨hp, -, hkeep⟩ := exec_frame h
  have hr : ∀ r ∈ readSet i, t.reg r = s.reg r := fun r hr => hkeep r fun hd => hi r hd hr
  obtain ⟨-, hs, ht⟩ | ⟨d, v, -, hs, ht⟩ := exec_congr i hp hr
  · exact ht
  · rw [hs] at h
    cases h
    simpa using ht

/-! ### One step -/

/-- A step on fields the decoder knows runs their instruction, with the fields consumed (R80). -/
theorem step_present_of_decode {s : State} {f : Fields} {i : Instr} (rest : List Fields)
    (hd : decode s.params f = .ok i) : step (s.present (f :: rest)) = exec i (s.present rest) := by
  have hf : fetch (s.present (f :: rest)) = some (f, s.present rest) := rfl
  simp only [step, hf, present_params, hd]

/-- A step consumes one field set and keeps the build and every register but its instruction's destination. -/
theorem step_frame {s t : State} (h : step s = .next t) :
    ∃ f i, s.input = f :: t.input ∧ decode s.params f = .ok i ∧ t.params = s.params ∧
      ∀ r, dest i ≠ some r → t.reg r = s.reg r := by
  obtain ⟨f, rest, i, hin, hd, hx⟩ := step_eq_next h
  obtain ⟨hp, rfl, hkeep⟩ := exec_frame hx
  exact ⟨f, i, hin, hd, hp, hkeep⟩

/-! ### The caller's run, one presented field set at a time -/

section
variable {c : Bool} {f : Fields} {rest : List Fields} {k : DefinedRegs} {s t : State} {u : Unsupported} {i : Instr}

/-- A continuing caller reports the error and goes on. -/
theorem callerRun_continue (hd : decode s.params f = .error u) :
    callerRun true (f :: rest) k s = (callerRun true rest k s).report u := by
  simp [callerRun, hd]

/-- A stopping caller ends its run at the error. -/
theorem callerRun_stop (hd : decode s.params f = .error u) :
    callerRun false (f :: rest) k s =
      { cause := .fault (.unsupportedInstruction u.opcode u.funct), state := s.present rest, defined := k,
        reported := [u] } := by
  simp [callerRun, hd]

/-- A read of a register without a value ends the run. -/
theorem callerRun_uninitRead {r : RegIdx} (hd : decode s.params f = .ok i) (hu : uninitRead k i = some r) :
    callerRun c (f :: rest) k s =
      { cause := .modelFault (.uninitRead r), state := s.present rest, defined := k, reported := [] } := by
  simp [callerRun, hd, hu]

/-- An instruction whose read set holds values runs, and the run goes on from the state it leaves. -/
theorem callerRun_exec (hd : decode s.params f = .ok i) (hu : uninitRead k i = none)
    (hx : exec i (s.present rest) = .next t) :
    callerRun c (f :: rest) k s = callerRun c rest (k.afterInstr i) t := by
  simp only [callerRun, hd, hu, step_present_of_decode rest hd, hx]

end

/-! ### Runs from states that agree where registers hold a value -/

/-- The states have the same build and agree on the registers that hold a value. -/
structure AgreeOn (k : DefinedRegs) (s s' : State) : Prop where
  params : s.params = s'.params
  regs : ∀ r, k.has r = true → s.reg r = s'.reg r

/-- Two runs end alike, as far as a caller that reads only registers with a value can see. -/
structure RunEnd.SameSeen (e e' : RunEnd) : Prop where
  cause : e.cause = e'.cause
  reported : e.reported = e'.reported
  defined : e.defined = e'.defined
  regs : ∀ r, e.defined.has r = true → e.state.reg r = e'.state.reg r

theorem RunEnd.SameSeen.report {e e' : RunEnd} (h : e.SameSeen e') (u : Unsupported) :
    (e.report u).SameSeen (e'.report u) :=
  ⟨h.cause, congrArg (u :: ·) h.reported, h.defined, h.regs⟩

/-- An instruction that reads only registers with a value keeps the agreement, and extends it to its destination. -/
theorem AgreeOn.after_exec {k : DefinedRegs} {s s' : State} {i : Instr} (h : AgreeOn k s s')
    (hu : uninitRead k i = none) :
    ∃ t t', exec i s = .next t ∧ exec i s' = .next t' ∧ AgreeOn (k.afterInstr i) t t' := by
  have hread : ∀ r ∈ readSet i, s'.reg r = s.reg r := fun r hr =>
    (h.regs r (uninitRead_eq_none.mp hu r hr)).symm
  obtain ⟨hd, hs, hs'⟩ | ⟨d, v, hd, hs, hs'⟩ := exec_congr i h.params.symm hread
  · exact ⟨_, _, hs, hs', h.params, by simpa [afterInstr_has, hd] using h.regs⟩
  · refine ⟨_, _, hs, hs', h.params, fun r hr => ?_⟩
    by_cases e : r = d
    · simp [e]
    · have hk : k.has r = true := by simpa [afterInstr_has, hd, Ne.symm e] using hr
      simpa [setReg_reg, e] using h.regs r hk

theorem AgreeOn.sameSeen_callerRun {c : Bool} {program : List Fields} {k : DefinedRegs} {s s' : State}
    (h : AgreeOn k s s') : (callerRun c program k s).SameSeen (callerRun c program k s') := by
  induction program generalizing k s s' with
  | nil => exact ⟨rfl, rfl, rfl, h.regs⟩
  | cons f rest ih =>
    have hdec : decode s'.params f = decode s.params f := by rw [h.params]
    cases hd : decode s.params f with
    | error u =>
      cases c with
      | false =>
        rw [callerRun_stop hd, callerRun_stop (hdec.trans hd)]
        exact ⟨rfl, rfl, rfl, h.regs⟩
      | true =>
        rw [callerRun_continue hd, callerRun_continue (hdec.trans hd)]
        exact (ih h).report u
    | ok i =>
      cases hu : uninitRead k i with
      | some r =>
        rw [callerRun_uninitRead hd hu, callerRun_uninitRead (hdec.trans hd) hu]
        exact ⟨rfl, rfl, rfl, h.regs⟩
      | none =>
        have hpresent : AgreeOn k (s.present rest) (s'.present rest) := ⟨h.params, h.regs⟩
        obtain ⟨t, t', ht, ht', hagree⟩ := hpresent.after_exec hu
        rw [callerRun_exec hd hu ht, callerRun_exec (hdec.trans hd) hu ht']
        exact ih hagree

/-! ### Runs in which every register holds a value -/

theorem callerRun_ne_modelFault {c : Bool} {program : List Fields} {k : DefinedRegs} {s : State}
    (hk : ∀ r, k.has r = true) (m : ModelFault) : (callerRun c program k s).cause ≠ .modelFault m := by
  induction program generalizing k s with
  | nil => exact nofun
  | cons f rest ih =>
    cases hd : decode s.params f with
    | error u =>
      cases c with
      | false => rw [callerRun_stop hd]; exact nofun
      | true => rw [callerRun_continue hd]; exact ih hk
    | ok i =>
      have hu : uninitRead k i = none := uninitRead_eq_none.mpr fun r _ => hk r
      obtain ⟨t, ht⟩ := exec_completes i (s.present rest)
      rw [callerRun_exec hd hu ht]
      exact ih fun r => by simp [afterInstr_has, hk r]

/-! ### The statements -/

/-- Settles O35: a step writes only the destination of the field set it consumes, and `K` holds none of those. -/
theorem untouchedRegistersAndBuildAreInvariant : Obligations.UntouchedRegistersAndBuildAreInvariant := by
  intro p K v s t ⟨hp, hv, hK⟩ h
  obtain ⟨f, i, hin, hd, hparams, hkeep⟩ := step_frame h
  rw [hin] at hK
  have hdest : ∀ r, K r → dest i ≠ some r := fun r hr e => hK f List.mem_cons_self i hd r e hr
  refine ⟨hparams.trans hp, fun r hr => (hkeep r (hdest r hr)).trans (hv r hr), ?_⟩
  rw [hparams]
  exact fun g hg => hK g (List.mem_cons_of_mem f hg)

/-- Settles O16: the last clause is `exec_renameRegs`, with injectivity to keep the other registers apart. -/
theorem registerZeroBehavesLikeAnyOther : Obligations.RegisterZeroBehavesLikeAnyOther := by
  refine ⟨launch_reg, fun s r v => ⟨setReg_reg_same s r v, fun q hq => setReg_reg_other s v hq.symm⟩, ?_⟩
  intro π hπ i s s' hp hr
  obtain ⟨-, hs, hs'⟩ | ⟨d, v, -, hs, hs'⟩ := exec_renameRegs π i hp fun r _ => hr r
  · exact ⟨s, s', hs, hs', hr⟩
  · exact ⟨_, _, hs, hs', fun r => by simp only [setReg_reg, hπ.eq_iff, hr]⟩

/-- Settles O19, by the dependence of a write on the read set and the build alone. -/
theorem noHiddenStateIsObservable : Obligations.NoHiddenStateIsObservable := by
  refine ⟨fun i s s' hregs hp => ?_, fun i s hi => ?_⟩
  · have hr : ∀ r, s'.reg r = s.reg r := fun r => by simp only [State.reg, hregs]
    obtain ⟨-, hs, hs'⟩ | ⟨d, v, -, hs, hs'⟩ := exec_congr i hp.symm fun r _ => hr r
    · exact ⟨s, s', hs, hs', hregs⟩
    · exact ⟨_, _, hs, hs', by simp only [State.setReg, hregs]⟩
  · obtain ⟨t, ht⟩ := exec_completes i s
    exact ⟨t, ht, exec_again hi ht⟩

/-- Settles O41, by induction on the program: each instruction that runs keeps the agreement of the two states. -/
theorem runDoesNotDependOnUnsetRegisters : Obligations.RunDoesNotDependOnUnsetRegisters := by
  intro c program k s s' hp hr
  obtain ⟨hcause, hreported, hdefined, hregs⟩ := AgreeOn.sameSeen_callerRun (c := c) (program := program) ⟨hp, hr⟩
  exact ⟨hcause, hreported, hdefined, hregs⟩

/-- Settles O42, from the equations of the caller's run and R84's table. -/
theorem modelFaultExactlyOnReadingAnUnsetRegister : Obligations.ModelFaultExactlyOnReadingAnUnsetRegister := by
  refine ⟨fun k i r => by simp [afterInstr_has, dest_eq_some], fun c k s => ⟨rfl, rfl, rfl, rfl, rfl⟩,
    fun c f rest k s => ⟨fun i hd ⟨q, hq, hkq⟩ => ?_, fun i hd hk => ?_, fun u hd => ?_⟩⟩
  · cases hu : uninitRead k i with
    | none =>
      have hset := uninitRead_eq_none.mp hu q (mem_readSet.mpr hq)
      simp [hset] at hkq
    | some r =>
      obtain ⟨hmem, hkr⟩ := uninitRead_eq_some hu
      rw [callerRun_uninitRead hd hu]
      exact ⟨r, mem_readSet.mp hmem, hkr, rfl, rfl, rfl, rfl, rfl⟩
  · have hu : uninitRead k i = none := uninitRead_eq_none.mpr fun r hr => hk r (mem_readSet.mp hr)
    obtain ⟨t, ht⟩ := exec_completes i (s.present rest)
    exact ⟨t, ht, callerRun_exec hd hu ht⟩
  · obtain rfl := decode_eq_error hd
    rw [callerRun_stop hd]
    exact ⟨rfl, rfl, rfl, rfl, rfl⟩

/-- Settles O43: the launch gives the run's first state, and no instruction takes a register's value away. -/
theorem fullyInitialisedLaunchesNeverModelFault : Obligations.FullyInitialisedLaunchesNeverModelFault := by
  refine ⟨fun c init p program => ⟨init.defined, State.launch init.contents p program, rfl, fun r => ?_,
    fun r v h => contents_get h, rfl⟩, fun c init p program h => ?_⟩
  · rw [defined_has, Option.isSome_iff_exists]
  · exact callerRun_ne_modelFault fun r => (defined_has init r).trans (h r)

/-- Settles O17, by the read-after-write laws of the register file. -/
theorem writePortWritesOneRegisterWhenEnabled : Obligations.WritePortWritesOneRegisterWhenEnabled := by
  intro s index word
  rw [writePort_enabled]
  exact ⟨writePort_disabled s index word, setReg_reg_same s index word,
    fun r hr => setReg_reg_other s word hr, rfl, rfl⟩

end Sys2Proof.Machine
end

section
/-! SUPPORT. Register writes in sequence, and programs held as bytes (spec/20_memory.md). -/

namespace Sys2Proof.Machine

/-! ### Register writes in sequence -/

/-- A write of the value a register holds changes nothing (R43). -/
@[simp] theorem setReg_reg_self (s : State) (r : RegIdx) : s.setReg r (s.reg r) = s := by
  refine State.ext_reg (fun q => ?_) rfl rfl
  by_cases h : q = r <;> simp [setReg_reg, h]

/-- Writes to two different registers commute, because neither changes the other's register (R24). -/
theorem setReg_comm (s : State) {r q : RegIdx} (v w : Word) (h : r ≠ q) :
    (s.setReg r v).setReg q w = (s.setReg q w).setReg r v := by
  refine State.ext_reg (fun k => ?_) rfl rfl
  by_cases hk : k = r
  · subst hk
    simp [setReg_reg, h]
  · simp [setReg_reg, hk]

/-- Settles O18, by the laws of two register writes in sequence. -/
theorem registerWritesAreIdempotentAndCommute : Obligations.RegisterWritesAreIdempotentAndCommute :=
  fun s r _ v w => ⟨setReg_reg_self s r, setReg_setReg_same s r v v, setReg_comm s v w⟩

/-! ### Programs held as bytes -/

/-- A word's four bytes at the head are presented as that word's fields, in either fetch order (D12). -/
theorem fieldsOfBytes_bytesOfWord_append {e : Endian} {bs : List Byte} {fs : List Fields} (w : Word)
    (h : fieldsOfBytes e bs = .ok fs) : fieldsOfBytes e (bytesOfWord e w ++ bs) = .ok (fieldsOfWord w :: fs) := by
  cases e with
  | big => simp [bytesOfWord, fieldsOfBytes, h, wordOfBytes_big]
  | little => simp [bytesOfWord, fieldsOfBytes, h, wordOfBytes_little]

/-- Settles O30, by induction on the program: each instruction's bytes are the bytes of its one word. -/
theorem programBytesArePresentedWordByWord : Obligations.ProgramBytesArePresentedWordByWord := by
  intro e program
  induction program with
  | nil => rfl
  | cons i rest ih => exact fieldsOfBytes_bytesOfWord_append (encode i) ih

end Sys2Proof.Machine
end

section
/-! SUPPORT. The decoder against R62's illegal encodings, the encoder, the word layout and the opcode table
(spec/30_encoding.md). -/

namespace Sys2Proof.Machine

open Sys2Proof.Spec

/-! ### The two halves of the decoder (R82) -/

section
variable {p : Params} {f g : Fields} {i : Instr}

/-- The model's NOOP test is R63's. -/
theorem allZero_eq_false : f.allZero = false ↔ ¬ AllZero f := by
  rw [← Bool.not_eq_true, Fields.allZero_eq_true, AllZero]

/-- Every R-type operation writes `rd`. -/
theorem decodeRType_dest (h : decodeRType f = .ok i) : dest i = some f.rd := by
  unfold decodeRType at h
  split at h
  all_goals cases h
  all_goals rfl

/-- An R-type operation uses `rt`, `rd` and one of `shiftAmount` and `rs` (R52). -/
theorem decodeRType_congr (hop : f.opcode = g.opcode) (hfunct : f.funct = g.funct) (hrt : f.rt = g.rt)
    (hrd : f.rd = g.rd) (hsa : UsesShiftAmount f.funct → f.sa = g.sa)
    (hrs : ¬ UsesShiftAmount f.funct → f.rs = g.rs) : decodeRType f = decodeRType g := by
  by_cases hu : UsesShiftAmount f.funct
  · simp only [decodeRType, ← hfunct, ← hrt, ← hrd, ← hsa hu]
    obtain h | h | h := hu
    all_goals simp [h]
  · simp only [decodeRType, Fields.unsupported, ← hop, ← hfunct, ← hrt, ← hrd, ← hrs hu]
    simp only [UsesShiftAmount, ← BitVec.toNat_inj] at hu
    split
    case h_1 h | h_2 h | h_3 h => simp [h] at hu
    all_goals rfl

/-- `mk` builds an instruction from the operands of an I-type field set: `rs` is read, `rt` written, and which
operation it is does not depend on them (R53). -/
structure IsITypeOp (mk : RegIdx → RegIdx → Imm16 → Instr) : Prop where
  reads : ∀ rt rs imm, readSet (mk rt rs imm) = [rs]
  writes : ∀ rt rs imm, dest (mk rt rs imm) = some rt
  mnemonic : ∀ rt rs imm rt' rs' imm', (mk rt rs imm).mnemonic = (mk rt' rs' imm').mnemonic

/-- Field sets with one opcode get one operation from the I-type half, each with its own operands, or both get their
error (R53). -/
theorem decodeIType_cases (p : Params) (hop : f.opcode = g.opcode) :
    (∃ mk, IsITypeOp mk ∧ decodeIType p f = .ok (mk f.rt f.rs f.imm) ∧
      decodeIType p g = .ok (mk g.rt g.rs g.imm)) ∨
    decodeIType p f = .error f.unsupported ∧ decodeIType p g = .error g.unsupported := by
  simp only [decodeIType, ifLogicalImm, ← hop]
  split
  case h_5 | h_6 | h_7 =>
    cases p.hasLogicalImm with
    | false => exact .inr ⟨rfl, rfl⟩
    | true => exact .inl ⟨_, ⟨fun _ _ _ => rfl, fun _ _ _ => rfl, fun _ _ _ _ _ _ => rfl⟩, rfl, rfl⟩
  case h_8 => exact .inr ⟨rfl, rfl⟩
  all_goals exact .inl ⟨_, ⟨fun _ _ _ => rfl, fun _ _ _ => rfl, fun _ _ _ _ _ _ => rfl⟩, rfl, rfl⟩

/-- Every I-type operation writes `rt`. -/
theorem decodeIType_dest (h : decodeIType p f = .ok i) : dest i = some f.rt := by
  obtain ⟨mk, hmk, hf, -⟩ | ⟨hf, -⟩ := decodeIType_cases p (rfl : f.opcode = f.opcode)
  all_goals
    rw [h] at hf
    cases hf
  exact hmk.writes ..

/-- NOOP comes from the NOOP test alone, since every other operation has a destination (R63). -/
theorem decode_eq_noop : decode p f = .ok .noop ↔ AllZero f := by
  refine ⟨fun h => ?_, fun h => decode_allZero p (Fields.allZero_eq_true.mpr h)⟩
  by_contra hz
  by_cases h0 : f.opcode = 0
  · rw [decode_rType p h0 (allZero_eq_false.mpr hz)] at h
    exact nomatch decodeRType_dest h
  · rw [decode_iType p h0] at h
    exact nomatch decodeIType_dest h

/-- Function code 0 past the NOOP test (R63). -/
theorem decode_sll (p : Params) (h0 : f.opcode = 0) (hfunct : f.funct = 0) (hz : ¬ AllZero f) :
    decode p f = .ok (.sll f.rd f.rt f.sa) := by
  rw [decode_rType p h0 (allZero_eq_false.mpr hz)]
  simp [decodeRType, hfunct]

/-- The all-zero field set with `immediate` alone changed (D24). -/
theorem decode_sll_of_imm_changed (p : Params) (hf : AllZero f) (hg : ¬ AllZero g)
    (h : g = { f with imm := g.imm }) : decode p g = .ok (.sll 0 0 0) := by
  obtain ⟨hop, hfunct, -, hrt, hrd, hsa, -⟩ := hf
  rw [h] at hg ⊢
  rw [decode_sll p (f := { f with imm := g.imm }) hop hfunct hg, hrt, hrd, hsa]

/-! ### The illegal encodings (R62) -/

theorem decodeRType_eq_error (p : Params) (h0 : f.opcode.toNat = 0) :
    decodeRType f = .error f.unsupported ↔ Illegal p f := by
  have hfunct := f.funct.isLt
  unfold decodeRType Illegal
  split
  all_goals
    simp only [reduceCtorEq, eq_self, true_iff, false_iff, imp_false] at *
    omega

theorem decodeIType_eq_error (h0 : f.opcode.toNat ≠ 0) :
    decodeIType p f = .error f.unsupported ↔ Illegal p f := by
  have hopcode := f.opcode.isLt
  unfold decodeIType ifLogicalImm Illegal
  cases p.hasLogicalImm
  all_goals
    split
    all_goals
      simp only [reduceCtorEq, eq_self, ↓reduceIte, and_true, and_false, or_false, true_iff, false_iff,
        imp_false] at *
      omega

theorem decode_eq_error_iff : decode p f = .error f.unsupported ↔ Illegal p f := by
  by_cases h0 : f.opcode = 0
  · by_cases hz : AllZero f
    · obtain ⟨-, hfunct, -⟩ := id hz
      simp [decode_eq_noop.mpr hz, Illegal, h0, hfunct]
    · rw [decode_rType p h0 (allZero_eq_false.mpr hz), decodeRType_eq_error p (by simp [h0])]
  · rw [decode_iType p h0, decodeIType_eq_error (by simpa [← BitVec.toNat_inj] using h0)]

/-- A step on presented fields the decoder does not know faults, with the codes as presented (R160, R161). -/
theorem step_of_decode_error {s : State} {rest : List Fields} {u : Unsupported} (hin : s.input = f :: rest)
    (hd : decode s.params f = .error u) : step s = .fault (.unsupportedInstruction f.opcode f.funct) := by
  obtain rfl := decode_eq_error hd
  have hf : fetch s = some (f, s.present rest) := fetch_eq_some.mpr ⟨rest, hin, rfl⟩
  simp only [step, hf, hd, raiseUnsupported_eq, Fields.unsupported]

/-- A step on presented fields the decoder knows runs their instruction (R80). -/
theorem step_of_decode {s : State} {rest : List Fields} (hin : s.input = f :: rest)
    (hd : decode s.params f = .ok i) : step s = exec i (s.present rest) := by
  have h := step_present_of_decode rest hd
  rwa [← hin, present_self] at h

end

/-! ### Words (R54, R55) -/

/-- A slice of a word, read as a number. -/
theorem toNat_extractLsb' (w : Word) (start len : Nat) :
    (w.extractLsb' start len).toNat = w.toNat / 2 ^ start % 2 ^ len := by
  rw [BitVec.extractLsb'_toNat, Nat.shiftRight_eq_div_pow]

/-- R55: `immediate` lies over the three R-type fields. -/
theorem imm_fieldsOfWord (w : Word) :
    (fieldsOfWord w).imm = (fieldsOfWord w).rd ++ (fieldsOfWord w).sa ++ (fieldsOfWord w).funct := by
  apply BitVec.eq_of_getLsbD_eq
  intro k hk
  simp only [fieldsOfWord, BitVec.getLsbD_append, BitVec.getLsbD_extractLsb']
  interval_cases k <;> simp

/-- The word form of the NOOP test (R55, R63). -/
theorem allZero_fieldsOfWord {w : Word} : AllZero (fieldsOfWord w) ↔ w = 0 := by
  refine ⟨?_, ?_⟩
  · rintro ⟨hop, hfunct, hrs, hrt, hrd, hsa, -⟩
    rw [word_eq_fields w, hop, hfunct, hrs, hrt, hrd, hsa]
    rfl
  · rintro rfl
    simp [AllZero, fieldsOfWord]

/-- An R-type word other than the zero word decodes by its function code. -/
theorem decodeWord_rTypeWord (p : Params) {rs rt rd : RegIdx} {sa : ShiftAmount} {funct : Code}
    (h : ¬ (funct = 0 ∧ rs = 0 ∧ rt = 0 ∧ rd = 0 ∧ sa = 0)) :
    decodeWord p (rTypeWord rs rt rd sa funct) =
      decodeRType { opcode := 0, rs := rs, rt := rt, rd := rd, sa := sa, funct := funct,
                    imm := rd ++ sa ++ funct } := by
  rw [decodeWord, fieldsOfWord_rTypeWord]
  refine decode_rType p rfl (allZero_eq_false.mpr ?_)
  rintro ⟨-, hfunct, hrs, hrt, hrd, hsa, -⟩
  exact h ⟨hfunct, hrs, hrt, hrd, hsa⟩

/-- An I-type word decodes by its opcode. -/
theorem decodeWord_iTypeWord (p : Params) {opcode : Code} (rs rt : RegIdx) (imm : Imm16) (h : opcode ≠ 0) :
    decodeWord p (iTypeWord opcode rs rt imm) =
      decodeIType p { opcode := opcode, rs := rs, rt := rt, rd := imm.extractLsb' 11 5, sa := imm.extractLsb' 6 5,
                      funct := imm.extractLsb' 0 6, imm := imm } := by
  rw [decodeWord, fieldsOfWord_iTypeWord]
  exact decode_iType p h

/-- The ignored `rs` of an encoded SLL keeps its word off the zero word (R63). -/
theorem sllUnusedRs_ne_zero {rd rt : RegIdx} {sa : ShiftAmount} (hrt : rt = 0) (hrd : rd = 0) (hsa : sa = 0) :
    sllUnusedRs rd rt sa ≠ 0 := by
  simp [sllUnusedRs, hrt, hrd, hsa]

theorem decodeWord_encode {p : Params} {i : Instr} (h : i.wellFormed p = true) : decodeWord p (encode i) = .ok i := by
  cases i
  case noop => exact decode_eq_noop.mpr (by simp [encode, fieldsOfWord_rTypeWord, AllZero])
  case sll rd rt sa =>
    have hz : ¬ ((0 : Code) = 0 ∧ sllUnusedRs rd rt sa = 0 ∧ rt = 0 ∧ rd = 0 ∧ sa = 0) :=
      fun ⟨_, hrs, hrt, hrd, hsa⟩ => sllUnusedRs_ne_zero hrt hrd hsa hrs
    exact decodeWord_rTypeWord p hz
  case andi | ori | xori =>
    have hp : p.hasLogicalImm = true := h
    rw [encode, decodeWord_iTypeWord p _ _ _ (by decide)]
    exact if_pos hp
  case addi | addiu | slti | sltiu => exact decodeWord_iTypeWord p _ _ _ (by decide)
  all_goals exact decodeWord_rTypeWord p fun hz => absurd hz.1 (by decide)

/-! ### Bytes (D12) -/

/-- A word's four bytes at the head are read as that word, in either fetch order, and the bytes after it are left
over. -/
theorem decodeBytes_bytesOfWord_append {p : Params} {e : Endian} {w : Word} {rest rest' : List Byte} {i : Instr} :
    decodeBytes p e (bytesOfWord e w ++ rest) = .ok (i, rest') ↔ decodeWord p w = .ok i ∧ rest = rest' := by
  cases e
  all_goals
    simp only [bytesOfWord, List.cons_append, List.nil_append, decodeBytes, wordOfBytes_big, wordOfBytes_little]
    cases decodeWord p w <;> simp

/-- A word the host's decoder reads is a word the default build decodes. -/
theorem decodeWord_of_decodeTableWord {nbits w : Nat} {i : Instr} (h : decodeTableWord nbits w = some i) :
    decodeWord Params.default (BitVec.ofNat 32 (w % 2 ^ nbits)) = .ok i := by
  unfold decodeTableWord at h
  split at h
  case isFalse => cases h
  case isTrue =>
    split at h
    case h_2 => cases h
    case h_1 hd =>
      cases h
      rw [← List.append_nil (bytesOfWord _ _)] at hd
      exact (decodeBytes_bytesOfWord_append.mp hd).1

/-! ### The opcode table

Both sides depend on the two codes of the word alone, once the zero word is set apart: the rows because of their masks,
the decoder because it chooses by the codes. The numbers are then compared code by code. -/

/-- The operation a decoding found, by its name in the table. -/
def operation (d : Except Unsupported Instr) : Option String := d.toOption.map Instr.mnemonic

/-- The name in the first row after NOOP's that applies to a word. -/
def rowAfterNoop (p : Params) (w : Word) : Option String :=
  (opcodeRows.tail.find? (OpcodeRow.applies p w)).map OpcodeRow.mnemonic

/-- Off the zero word NOOP's row does not apply. -/
theorem tableRow_of_ne_zero (p : Params) {w : Word} (hw : w ≠ 0) :
    (tableRow p w).map OpcodeRow.mnemonic = rowAfterNoop p w := by
  have h : OpcodeRow.applies p w ⟨0x00000000, 0xFFFFFFFF, "NOOP", false⟩ = false := by
    have hm : w &&& 0xFFFFFFFF = w := BitVec.and_allOnes
    simp only [OpcodeRow.applies, hm]
    simpa using hw
  rw [tableRow, opcodeRows, List.find?_cons, h]
  rfl

/-- Rows after NOOP's test no bit outside the R-type mask. -/
theorem rowAfterNoop_and_rTypeMask (p : Params) (w : Word) : rowAfterNoop p (w &&& rTypeMask) = rowAfterNoop p w := by
  have hmask : ∀ r ∈ opcodeRows.tail, rTypeMask &&& r.mask = r.mask := by decide
  unfold rowAfterNoop
  congr 1
  refine List.find?_congr fun r hr => ?_
  rw [OpcodeRow.applies, OpcodeRow.applies, BitVec.and_assoc, hmask r hr]

/-- Off opcode 0 no R-type row applies. -/
theorem applies_eq_false_of_rTypeMask {p : Params} {w : Word} {r : OpcodeRow} (hm : r.mask = rTypeMask)
    (hp : r.pattern &&& iTypeMask = 0) (hw : w &&& iTypeMask ≠ 0) : r.applies p w = false := by
  have hmasks : rTypeMask &&& iTypeMask = iTypeMask := by decide
  have hne : w &&& rTypeMask ≠ r.pattern := by
    intro h
    rw [← h, BitVec.and_assoc, hmasks] at hp
    exact hw hp
  simp [OpcodeRow.applies, hm, hne]

/-- Off opcode 0 the table tests no bit outside the I-type mask. -/
theorem rowAfterNoop_and_iTypeMask (p : Params) {w : Word} (hw : w &&& iTypeMask ≠ 0) :
    rowAfterNoop p (w &&& iTypeMask) = rowAfterNoop p w := by
  have hrow : ∀ r ∈ opcodeRows.tail, r.mask = iTypeMask ∨ r.mask = rTypeMask ∧ r.pattern &&& iTypeMask = 0 := by
    decide
  have htwice : w &&& iTypeMask &&& iTypeMask = w &&& iTypeMask := by rw [BitVec.and_assoc, BitVec.and_self]
  unfold rowAfterNoop
  congr 1
  refine List.find?_congr fun r hr => ?_
  obtain hm | ⟨hm, hp⟩ := hrow r hr
  · rw [OpcodeRow.applies, OpcodeRow.applies, hm, htwice]
  · rw [applies_eq_false_of_rTypeMask hm hp hw, applies_eq_false_of_rTypeMask hm hp (by rwa [htwice])]

/-- The field set with these two codes and zeros elsewhere. -/
def codesOnly (opcode funct : Code) : Fields :=
  { opcode := opcode, rs := 0, rt := 0, rd := 0, sa := 0, funct := funct, imm := 0 }

theorem operation_decodeRType (f : Fields) :
    operation (decodeRType f) = operation (decodeRType (codesOnly 0 f.funct)) := by
  simp only [decodeRType, codesOnly]
  split <;> rfl

theorem operation_decodeIType (p : Params) (f : Fields) :
    operation (decodeIType p f) = operation (decodeIType p (codesOnly f.opcode 0)) := by
  obtain ⟨mk, hmk, hf, hg⟩ | ⟨hf, hg⟩ := decodeIType_cases p (f := f) (g := codesOnly f.opcode 0) rfl
  all_goals rw [hf, hg]
  · exact congrArg some (hmk.mnemonic ..)
  · rfl

/-- R59's function codes are those of the R-type rows. -/
theorem operation_decodeRType_codesOnly (p : Params) : ∀ funct : Code,
    operation (decodeRType (codesOnly 0 funct)) = rowAfterNoop p ((0 : Code) ++ (0 : BitVec 20) ++ funct) := by
  obtain ⟨_ | _, _ | _⟩ := p <;> decide

/-- R59's opcodes are those of the I-type rows. -/
theorem operation_decodeIType_codesOnly (p : Params) : ∀ opcode : Code, opcode ≠ 0 →
    operation (decodeIType p (codesOnly opcode 0)) = rowAfterNoop p (opcode ++ (0 : BitVec 26)) := by
  obtain ⟨_ | _, _ | _⟩ := p <;> decide

theorem tableRow_mnemonic (p : Params) (w : Word) :
    (tableRow p w).map OpcodeRow.mnemonic = operation (decodeWord p w) := by
  by_cases hw : w = 0
  · subst hw
    rw [decodeWord, decode_eq_noop.mpr (allZero_fieldsOfWord.mpr rfl)]
    rfl
  have hz : (fieldsOfWord w).allZero = false := allZero_eq_false.mpr fun h => hw (allZero_fieldsOfWord.mp h)
  rw [tableRow_of_ne_zero p hw, decodeWord]
  by_cases h0 : (fieldsOfWord w).opcode = 0
  · rw [decode_rType p h0 hz, operation_decodeRType, operation_decodeRType_codesOnly p, ← rowAfterNoop_and_rTypeMask,
      and_rTypeMask, h0]
  · have hi : w &&& iTypeMask ≠ 0 := fun h => h0 (iTypePattern_inj.mp ((and_iTypeMask w).symm.trans h))
    rw [decode_iType p h0, operation_decodeIType, operation_decodeIType_codesOnly p _ h0,
      ← rowAfterNoop_and_iTypeMask p hi, and_iTypeMask]

/-! ### One register write, and the operand of ANDI, ORI and XORI -/

theorem getLsbD_logicalImm (ext : ImmExt) (imm : Imm16) {k : Nat} (h : k < 32) :
    (logicalImm ext imm).getLsbD k = logicalImmBit ext imm k := by
  cases ext with
  | sign => exact getLsbD_sext32 imm h
  | zero => exact getLsbD_zext32 imm h

/-- An instruction that ends in one register write completes with the value written. -/
theorem completes_of_writeBack {i : Instr} {s : State} {d : RegIdx} {v : Word} {Q : Word → Prop}
    (h : exec i s = writeBack s d v) (hQ : Q v) : Completes i s d Q :=
  ⟨_, h, by rwa [setReg_reg_same], fun _ hr => setReg_reg_other s v hr, rfl, rfl⟩

/-! ### The statements -/

/-- Settles O27: each instruction's word decodes by its own codes, and its bytes are the bytes of that word. -/
theorem encodeThenDecodeGivesTheInstructionBack : Obligations.EncodeThenDecodeGivesTheInstructionBack :=
  fun _ _ h => ⟨decodeWord_encode h, fun _ _ => decodeBytes_bytesOfWord_append.mpr ⟨decodeWord_encode h, rfl⟩⟩

/-- Settles O11: an absent operation is one of R62's illegal encodings, and a present one writes its bits. -/
theorem logicalImmediatesFollowTheBuildParameters : Obligations.LogicalImmediatesFollowTheBuildParameters := by
  refine ⟨fun p f hp => ?_, fun p f hp hop => ?_, fun s rt rs imm => ?_⟩
  · refine ⟨fun h => ?_, fun h => ?_, fun h => ?_⟩
    all_goals
      rw [decode_iType p (by simp [h])]
      simp [decodeIType, ifLogicalImm, h, hp]
  · refine decode_eq_error_iff.mpr (.inr (.inr (.inr ?_)))
    obtain h | h | h := hop
    all_goals simp [h, hp]
  · refine ⟨completes_of_writeBack rfl fun k hk => ?_, completes_of_writeBack rfl fun k hk => ?_,
      completes_of_writeBack rfl fun k hk => ?_⟩
    · rw [BitVec.getLsbD_and, getLsbD_logicalImm _ _ hk]
    · rw [BitVec.getLsbD_or, getLsbD_logicalImm _ _ hk]
    · rw [BitVec.getLsbD_xor, getLsbD_logicalImm _ _ hk]

/-- Settles O21: no operation but NOOP is without a destination, and SLL is what remains of function code 0. -/
theorem noopIsExactlyTheAllZeroFieldSet : Obligations.NoopIsExactlyTheAllZeroFieldSet :=
  fun p _ => ⟨decode_eq_noop, decode_sll p⟩

/-- Settles O22: past the NOOP test, the R-type half answers from the fields its operation uses. -/
theorem unusedRTypeFieldsAreIgnored : Obligations.UnusedRTypeFieldsAreIgnored := by
  intro p f g hf0 hg0 hf hg hfunct hrt hrd hsa hrs
  rw [decode_rType p hf0 (allZero_eq_false.mpr hf), decode_rType p hg0 (allZero_eq_false.mpr hg)]
  exact decodeRType_congr (hf0.trans hg0.symm) hfunct hrt hrd hsa hrs

/-- Settles O23, by the two ways field sets with one opcode can decode. -/
theorem iTypeIsChosenByOpcodeAlone : Obligations.ITypeIsChosenByOpcodeAlone := by
  intro p f g h0 hop
  rw [decode_iType p h0, decode_iType p (hop ▸ h0)]
  obtain ⟨mk, hmk, hf, hg⟩ | ⟨hf, hg⟩ := decodeIType_cases p hop
  · rw [hf, hg]
    refine ⟨fun hrs hrt himm i hi => ?_, ?_, nofun⟩
    · rw [← hrs, ← hrt, ← himm]
      exact hi
    · rintro _ ⟨⟩
      exact ⟨hmk.reads .., hmk.writes .., _, rfl, hmk.mnemonic ..⟩
  · rw [hf, hg]
    exact ⟨nofun, nofun, fun _ _ => rfl⟩

/-- Settles O24: an instruction that is decoded completes, so only the decoder's error is a fault. -/
theorem illegalEncodingsRaiseUnsupportedInstruction : Obligations.IllegalEncodingsRaiseUnsupportedInstruction := by
  intro s f rest hin
  have hfault (h : Illegal s.params f) : step s = .fault (.unsupportedInstruction f.opcode f.funct) :=
    step_of_decode_error hin (decode_eq_error_iff.mpr h)
  refine ⟨⟨fun ⟨r, hr⟩ => ?_, fun h => ⟨_, hfault h⟩⟩, hfault⟩
  cases hd : decode s.params f with
  | error u => exact decode_eq_error_iff.mp (decode_eq_error hd ▸ hd)
  | ok i =>
    obtain ⟨t, ht⟩ := exec_completes i (s.present rest)
    rw [step_of_decode hin hd, ht] at hr
    cases hr

/-- Settles O25: the fields are slices of the word, and NOOP's test on them is the test for the zero word. -/
theorem wordLayoutPlacesTheFields : Obligations.WordLayoutPlacesTheFields := by
  intro w
  have hop : w.toNat / 2 ^ 26 < 2 ^ 6 := by omega
  exact ⟨(toNat_extractLsb' w 26 6).trans (Nat.mod_eq_of_lt hop), toNat_extractLsb' w 21 5, toNat_extractLsb' w 16 5,
    toNat_extractLsb' w 11 5, toNat_extractLsb' w 6 5, (toNat_extractLsb' w 0 6).trans (by simp),
    (toNat_extractLsb' w 0 16).trans (by simp), imm_fieldsOfWord w,
    fun p => decode_eq_noop.trans allZero_fieldsOfWord⟩

/-- Settles O26: the R-type half of the decoder does not read `immediate`, so the answers differ only where exactly
one of the two field sets passes the NOOP test. -/
theorem onlyTheNoopTestSeesTheRTypeImmediate : Obligations.OnlyTheNoopTestSeesTheRTypeImmediate := by
  intro p f m h0 hne
  by_cases hf : AllZero f
  all_goals by_cases hg : AllZero { f with imm := m }
  · exact absurd ((decode_eq_noop.mpr hf).trans (decode_eq_noop.mpr hg).symm) hne
  · have hsll := decode_sll_of_imm_changed p hf hg rfl
    obtain ⟨-, hfunct, hrs, hrt, hrd, hsa, -⟩ := id hf
    exact ⟨hfunct, hrs, hrt, hrd, hsa, .inl ⟨decode_eq_noop.mpr hf, hsll⟩⟩
  · have hsll := decode_sll_of_imm_changed p hg hf rfl
    obtain ⟨-, hfunct, hrs, hrt, hrd, hsa, -⟩ := id hg
    exact ⟨hfunct, hrs, hrt, hrd, hsa, .inr ⟨hsll, decode_eq_noop.mpr hg⟩⟩
  · have hdf := decode_rType p h0 (allZero_eq_false.mpr hf)
    have hdg := decode_rType p (f := { f with imm := m }) h0 (allZero_eq_false.mpr hg)
    exact absurd (hdf.trans hdg.symm) hne

/-- Settles O28: on every word the table's first row has the name of the decoder's operation. -/
theorem decoderAgreesWithTheOpcodeTable : Obligations.DecoderAgreesWithTheOpcodeTable := by
  intro p w
  have h := tableRow_mnemonic p w
  refine ⟨fun i hi => ?_, fun u hu => ?_⟩
  · rw [hi] at h
    exact Option.map_eq_some_iff.mp h
  · rw [hu] at h
    exact Option.map_eq_none_iff.mp h

/-- Settles O34: the placed word's fields are the next presented ones, and they decode as the host reads the word. -/
theorem wordPlacedNextIsTheInstructionRun : Obligations.WordPlacedNextIsTheInstructionRun := by
  intro s w i _ hp h
  have hd := decodeWord_of_decodeTableWord h
  rw [← hp] at hd
  exact step_present_of_decode s.input.tail hd

end Sys2Proof.Machine
end

section
/-! SUPPORT. The block at its ports against the instruction it decodes, and the statements of the dispatch
(spec/40_dispatch.md). -/

namespace Sys2Proof.Machine

open Sys2Proof.Spec

/-! ### The operands on the read ports

The ports read `rs` and `rt` in every step (D4), so an instruction can run on their data only where the registers it
names are those two fields. -/

/-- The registers `i` reads are the fields `f` puts on the read addresses. -/
def ReadsPortsOf (f : Fields) (i : Instr) : Prop :=
  match i with
  | .noop => True
  | .sll _ rt _ | .srl _ rt _ | .sra _ rt _ => rt = f.rt
  | .sllv _ rt rs | .srlv _ rt rs => rs = f.rs ∧ rt = f.rt
  | .add _ rs rt | .addu _ rs rt | .sub _ rs rt | .subu _ rs rt => rs = f.rs ∧ rt = f.rt
  | .and _ rs rt | .or _ rs rt | .xor _ rs rt | .slt _ rs rt | .sltu _ rs rt => rs = f.rs ∧ rt = f.rt
  | .addi _ rs _ | .addiu _ rs _ | .slti _ rs _ | .sltiu _ rs _ => rs = f.rs
  | .andi _ rs _ | .ori _ rs _ | .xori _ rs _ => rs = f.rs

section
variable {p : Params} {f : Fields} {i : Instr}

theorem decodeRType_readsPorts (h : decodeRType f = .ok i) : ReadsPortsOf f i := by
  unfold decodeRType at h
  split at h
  all_goals cases h
  all_goals simp [ReadsPortsOf]

theorem decodeIType_readsPorts (h : decodeIType p f = .ok i) : ReadsPortsOf f i := by
  unfold decodeIType ifLogicalImm at h
  repeat' split at h
  all_goals cases h
  all_goals rfl

/-- A decoded instruction reads nothing but what the ports present. -/
theorem decode_readsPorts (h : decode p f = .ok i) : ReadsPortsOf f i := by
  by_cases h0 : f.opcode = 0
  · by_cases hz : AllZero f
    · rw [decode_eq_noop.mpr hz] at h
      cases h
      trivial
    · rw [decode_rType p h0 (allZero_eq_false.mpr hz)] at h
      exact decodeRType_readsPorts h
  · rw [decode_iType p h0] at h
    exact decodeIType_readsPorts h

/-- On the ports' data, the block computes the one write that the instruction makes in the register file. -/
theorem aluResult_cases (s : State) (h : ReadsPortsOf f i) :
    (i = .noop ∧ aluResult s.params.logicalImmExt i (s.reg f.rs) (s.reg f.rt) = none) ∨
      ∃ d v, dest i = some d ∧ aluResult s.params.logicalImmExt i (s.reg f.rs) (s.reg f.rt) = some (d, v) ∧
        exec i s = .next (s.setReg d v) := by
  cases i
  case noop => exact .inl ⟨rfl, rfl⟩
  all_goals
    simp only [ReadsPortsOf] at h
    simp only [← h]
    exact .inr ⟨_, _, rfl, rfl, rfl⟩

/-- The block ignores the data of a port whose register the instruction does not read (A5). -/
theorem aluResult_congr {ext : ImmExt} {a b a' b' : Word} (h : ReadsPortsOf f i)
    (ha : f.rs ∈ readSet i → a = a') (hb : f.rt ∈ readSet i → b = b') :
    aluResult ext i a b = aluResult ext i a' b' := by
  cases i
  case noop => rfl
  all_goals simp only [ReadsPortsOf] at h
  case sll | srl | sra =>
    obtain rfl := hb (by simp [readSet, h])
    rfl
  case addi | addiu | slti | sltiu | andi | ori | xori =>
    obtain rfl := ha (by simp [readSet, h])
    rfl
  all_goals
    obtain rfl := ha (by simp [readSet, h])
    obtain rfl := hb (by simp [readSet, h])
    rfl

end

/-! ### The outputs of the block, one lemma for each kind of step -/

@[simp] theorem idleOutputs_we (p : Params) (f : Fields) (a b : Word) : (idleOutputs p f a b).we = false := rfl

@[simp] theorem idleOutputs_unsupported (p : Params) (f : Fields) (a b : Word) :
    (idleOutputs p f a b).unsupported = false := rfl

section
variable {p : Params} {f : Fields} {a b : Word} {i : Instr}

theorem block_of_error {u : Unsupported} (hd : decode p f = .error u) :
    block p f a b =
      { idleOutputs p f a b with unsupported := true, errOpcode := f.opcode, errFunct := f.funct } := by
  simp only [block, hd]

theorem block_of_noWrite (hd : decode p f = .ok i) (hw : aluResult p.logicalImmExt i a b = none) :
    block p f a b = idleOutputs p f a b := by
  simp only [block, hd, hw]

theorem block_of_write {d : RegIdx} {v : Word} (hd : decode p f = .ok i)
    (hw : aluResult p.logicalImmExt i a b = some (d, v)) :
    block p f a b = { idleOutputs p f a b with we := true, waddr := d, wdata := v } := by
  simp only [block, hd, hw]

end

/-- What the block around a register file drives: the error, or nothing for NOOP, or the one write of the decoded
instruction (R85, R88). -/
theorem outputs_cases (s : State) (f : Fields) :
    (∃ u, decode s.params f = .error u ∧
      s.outputs f = { idleOutputs s.params f (s.reg f.rs) (s.reg f.rt) with
        unsupported := true, errOpcode := f.opcode, errFunct := f.funct }) ∨
    (decode s.params f = .ok .noop ∧ s.outputs f = idleOutputs s.params f (s.reg f.rs) (s.reg f.rt)) ∨
    ∃ i d v, decode s.params f = .ok i ∧ dest i = some d ∧ exec i s = .next (s.setReg d v) ∧
      s.outputs f = { idleOutputs s.params f (s.reg f.rs) (s.reg f.rt) with we := true, waddr := d, wdata := v } := by
  cases hd : decode s.params f with
  | error u => exact .inl ⟨u, rfl, block_of_error hd⟩
  | ok i =>
    obtain ⟨rfl, hw⟩ | ⟨d, v, hi, hw, hx⟩ := aluResult_cases s (decode_readsPorts hd)
    · exact .inr (.inl ⟨rfl, block_of_noWrite hd hw⟩)
    · exact .inr (.inr ⟨i, d, v, rfl, hi, hx, block_of_write hd hw⟩)

/-- The read addresses do not depend on the decoding (R87, D4). -/
theorem outputs_readAddresses (s : State) (f : Fields) :
    (s.outputs f).raddrA = f.rs ∧ (s.outputs f).raddrB = f.rt := by
  obtain ⟨u, -, h⟩ | ⟨-, h⟩ | ⟨i, d, v, -, -, -, h⟩ := outputs_cases s f
  all_goals
    rw [h]
    exact ⟨rfl, rfl⟩

/-- An instruction with a destination makes the write that the ports carry. -/
theorem exec_eq_outputs {s : State} {f : Fields} {i : Instr} {d : RegIdx} (hd : decode s.params f = .ok i)
    (hi : dest i = some d) :
    (s.outputs f).waddr = d ∧ exec i s = .next (s.setReg d (s.outputs f).wdata) := by
  obtain ⟨rfl, -⟩ | ⟨e, v, he, hw, hx⟩ := aluResult_cases s (decode_readsPorts hd)
  · cases hi
  · obtain rfl : e = d := Option.some.inj (he.symm.trans hi)
    rw [State.outputs, block_of_write hd hw]
    exact ⟨rfl, hx⟩

/-- Every instruction but NOOP has a destination (R84). -/
theorem exists_dest {i : Instr} (h : i ≠ .noop) : ∃ d, dest i = some d := by
  cases i
  case noop => exact absurd rfl h
  all_goals exact ⟨_, rfl⟩

theorem outputs_we_iff (s : State) (f : Fields) :
    (s.outputs f).we = true ↔ ∃ i, decode s.params f = .ok i ∧ i ≠ .noop := by
  obtain ⟨u, hd, h⟩ | ⟨hd, h⟩ | ⟨i, d, v, hd, hi, -, h⟩ := outputs_cases s f
  · simp [h, hd]
  · simp [h, hd]
  · have hne : i ≠ .noop := by rintro rfl; cases hi
    simp [h, hd, hne]

theorem outputs_unsupported_iff (s : State) (f : Fields) :
    (s.outputs f).unsupported = true ↔ ∃ u, decode s.params f = .error u := by
  obtain ⟨u, hd, h⟩ | ⟨hd, h⟩ | ⟨i, d, v, hd, -, -, h⟩ := outputs_cases s f
  all_goals simp [h, hd]

/-! ### Doubling and copying -/

/-- The wrap-around sum of the unsigned readings, in the statements' terms (R8). -/
theorem isWord32_addUnsigned (a b : Word) :
    IsWord32 (addUnsigned a b) (unsignedReading a + unsignedReading b) := by
  have h := word32_toNat (unsigned a + unsigned b)
  refine ⟨-((unsigned a + unsigned b) / 2 ^ 32), ?_⟩
  simp only [addUnsigned, unsignedReading, unsigned] at h ⊢
  omega

/-- A shift by no places. -/
@[simp] theorem shiftLeft_zero (x : Word) : shiftLeft x 0 = x := by
  simp [shiftLeft]

theorem exec_or_self (d r : RegIdx) (s : State) : exec (.or d r r) s = .next (s.setReg d (s.reg r)) := by
  rw [← BitVec.or_self (x := s.reg r)]
  rfl

/-- R86's pair of steps: the first doubles the old value of `r`, the second copies the new one to `d`. -/
theorem core_run_addu_or {s : State} {f g : Fields} {rest : List Fields} {r d : RegIdx}
    (hin : s.input = f :: g :: rest) (hf : decode s.params f = .ok (.addu r r r))
    (hg : decode s.params g = .ok (.or d r r)) :
    Sys2Proof.core.run 2 s =
      .next (((s.present rest).setReg r (addUnsigned (s.reg r) (s.reg r))).setReg d
        (addUnsigned (s.reg r) (s.reg r))) := by
  have hfirst : step s = .next ((s.present (g :: rest)).setReg r (addUnsigned (s.reg r) (s.reg r))) :=
    step_of_decode hin hf
  generalize addUnsigned (s.reg r) (s.reg r) = v at hfirst ⊢
  have hsecond : step ((s.present (g :: rest)).setReg r v) = .next (((s.present rest).setReg r v).setReg d v) :=
    (step_of_decode (s := (s.present (g :: rest)).setReg r v) rfl hg).trans (by simp [exec_or_self])
  have hone : Sys2Proof.core.run 1 s = .next ((s.present (g :: rest)).setReg r v) :=
    (core_run_succ_last 0 rfl).trans hfirst
  exact (core_run_succ_last 1 hone).trans hsecond

/-! ### The statements -/

/-- Settles O1: NOOP is exactly the all-zero field set, and `sll $0, $0, 0` writes register 0 with what it holds. -/
theorem noopReadsAndWritesNothing : Obligations.NoopReadsAndWritesNothing := by
  refine ⟨fun p => decode_eq_noop.mpr (allZero_fieldsOfWord.mpr rfl), fun p f => decode_eq_noop.mpr, finish_eq,
    fun s f hz => ?_, fun p f => decode_sll p, fun s f hop hfunct hrs hrt hrd hsa himm => ?_⟩
  · rw [State.outputs, block_of_noWrite (decode_eq_noop.mpr hz) rfl]
    rfl
  · have hz : ¬ AllZero f := fun ⟨_, _, _, _, _, _, h⟩ => himm h
    rw [State.outputs, block_of_write (decode_sll s.params hop hfunct hz) rfl, hrt, hrd, hsa]
    exact ⟨rfl, rfl, shiftLeft_zero _⟩

/-- Settles O14: the frame of one instruction, over R84's table. -/
theorem everyInstructionCompletesAndWritesOnlyItsDestination :
    Obligations.EveryInstructionCompletesAndWritesOnlyItsDestination := by
  refine ⟨fun i s => ?_, fun i r => ⟨mem_readSet, dest_eq_some⟩⟩
  obtain ⟨t, ht⟩ := exec_completes i s
  obtain ⟨hparams, hinput, hkeep⟩ := exec_frame ht
  exact ⟨t, ht, fun r hr => hkeep r (mt dest_eq_some.mp hr), hparams, hinput⟩

/-- Settles O15: an instruction writes one word in both states, and the block computes one write from both data. -/
theorem resultDependsOnlyOnTheReadSet : Obligations.ResultDependsOnlyOnTheReadSet := by
  refine ⟨fun i s s' hp hr => ?_, fun p f i a b a' b' hd ha hb => ?_⟩
  · obtain ⟨hi, hs, hs'⟩ | ⟨d, v, hi, hs, hs'⟩ := exec_congr i hp.symm fun r hmem => (hr r hmem).symm
    · exact ⟨s, s', hs, hs', by simp [hi]⟩
    · exact ⟨_, _, hs, hs', by simp [hi]⟩
  · have hcongr := aluResult_congr (ext := p.logicalImmExt) (decode_readsPorts hd) ha hb
    cases hw : aluResult p.logicalImmExt i a b with
    | none =>
      rw [block_of_noWrite hd hw, block_of_noWrite hd (hcongr.symm.trans hw)]
      exact ⟨rfl, nofun⟩
    | some w =>
      rw [block_of_write hd hw, block_of_write hd (hcongr.symm.trans hw)]
      exact ⟨rfl, fun _ => ⟨rfl, rfl⟩⟩

/-- Settles O20: the ports carry the write from the data before it, and a run's next step starts where the steps
before left the registers, so the pair's second read finds the sum. -/
theorem readsSeeEarlierWritesAndNotTheStepsOwn : Obligations.ReadsSeeEarlierWritesAndNotTheStepsOwn := by
  refine ⟨fun n s m f rest i hrun hin hd => (core_run_succ_last n hrun).trans (step_of_decode hin hd),
    fun s f i d hd hi => ?_, fun s f g rest r d hin hf hg => ?_⟩
  · exact ⟨_, (exec_eq_outputs hd hi).2, setReg_reg_same ..⟩
  · refine ⟨_, core_run_addu_or hin hf hg, ?_, ?_, fun q hqr hqd => ?_, rfl, rfl⟩
    · rw [setReg_reg, setReg_reg_same, ite_self, Int.two_mul]
      exact isWord32_addUnsigned ..
    · simp [setReg_reg]
    · simp [setReg_reg, hqr, hqd]

/-- Settles O44, by the three kinds of step at the ports. -/
theorem portStepIsTheStep : Obligations.PortStepIsTheStep := by
  intro s
  cases hin : s.input with
  | nil => simp only [portStep, step, fetch_eq_none.mpr hin]
  | cons f rest =>
    have hf : fetch s = some (f, s.present rest) := fetch_eq_some.mpr ⟨rest, hin, rfl⟩
    have ho : s.outputs f = (s.present rest).outputs f := rfl
    simp only [portStep, hf, ho]
    obtain ⟨u, hd, h⟩ | ⟨hd, h⟩ | ⟨i, d, v, hd, -, hx, h⟩ := outputs_cases (s.present rest) f
    · rw [h, step_of_decode_error hin hd]
      rfl
    · rw [h, step_of_decode hin hd]
      rfl
    · rw [h, step_of_decode hin hd, hx]
      rfl

/-- Settles O45: one law of the block's outputs for each clause. -/
theorem portsCarryTheOneWriteOrTheError : Obligations.PortsCarryTheOneWriteOrTheError := by
  intro s f
  have hwrite : ∀ i, decode s.params f = .ok i → i ≠ .noop → dest i = some (s.outputs f).waddr ∧
      exec i s = .next (s.setReg (s.outputs f).waddr (s.outputs f).wdata) := by
    intro i hd hne
    obtain ⟨d, hi⟩ := exists_dest hne
    obtain ⟨rfl, hx⟩ := exec_eq_outputs hd hi
    exact ⟨hi, hx⟩
  obtain ⟨hA, hB⟩ := outputs_readAddresses s f
  exact ⟨hA, hB, outputs_we_iff s f, outputs_unsupported_iff s f, hwrite⟩

/-- Settles O31, by the equations of the step. -/
theorem stepRunsTheDecodedInstruction : Obligations.StepRunsTheDecodedInstruction :=
  fun _ _ _ hin => ⟨fun _ => step_of_decode hin, fun _ => step_of_decode_error hin⟩

end Sys2Proof.Machine
end

section
/-! SUPPORT. The R-type half of the decoder past the NOOP test, SRA against SRL, and the statements of the shifts
(spec/41_shift.md). -/

namespace Sys2Proof.Machine

open Sys2Proof.Spec

/-! ### Function codes other than 0 -/

/-- The NOOP test accepts function code 0 alone, so for any other code `decode` is its R-type half (R63, R82). -/
theorem rTypeIs_of_decodeRType {funct : Code} {mk : Fields → Instr} (hne : funct ≠ 0)
    (h : ∀ f, f.funct = funct → decodeRType f = .ok (mk f)) : RTypeIs funct mk := by
  intro p f hop hfunct
  have hz : ¬ AllZero f := fun ⟨_, h0, _⟩ => hne (hfunct.symm.trans h0)
  exact (decode_rType p hop (allZero_eq_false.mpr hz)).trans (h f hfunct)

/-! ### Shifts of a source with sign bit 0 -/

/-- With sign bit 0, the fill of the arithmetic shift is the zero fill of the logical one (R103). -/
theorem shiftRightArith_eq_shiftRightLogical {x : Word} (sa : ShiftAmount) (h : x.getLsbD 31 = false) :
    shiftRightArith x sa = shiftRightLogical x sa :=
  BitVec.sshiftRight_eq_of_msb_false (x.msb_eq_getLsbD_last.trans h)

/-! ### The statements -/

/-- Settles O2, by the bits of the shifted word. -/
theorem sllAndSrlFillWithZeros : Obligations.SllAndSrlFillWithZeros := by
  refine ⟨fun p f => decode_sll p, rTypeIs_of_decodeRType (by decide) fun f h => by simp [decodeRType, h],
    fun s rd rt sa => ⟨?sll, ?srl⟩⟩
  case sll => exact completes_of_writeBack rfl fun k => getLsbD_shiftLeft _ sa
  case srl => exact completes_of_writeBack rfl fun k _ => getLsbD_shiftRightLogical _ sa k

/-- Settles O3: the fill is the sign bit, and where that is 0 it is SRL's fill. -/
theorem sraFillsWithTheSignBit : Obligations.SraFillsWithTheSignBit := by
  refine ⟨rTypeIs_of_decodeRType (by decide) fun f h => by simp [decodeRType, h], fun s rd rt sa => ?bits,
    fun s rd rt sa hsign => ?srl⟩
  case bits => exact completes_of_writeBack rfl fun k => getLsbD_shiftRightArith _ sa
  case srl => exact congrArg (writeBack s rd) (shiftRightArith_eq_shiftRightLogical sa hsign)

/-- Settles O4: the shifts of O2, with `x[rs]` modulo 32 for the amount. -/
theorem variableShiftsUseTheLowFiveBits : Obligations.VariableShiftsUseTheLowFiveBits := by
  refine ⟨rTypeIs_of_decodeRType (by decide) fun f h => by simp [decodeRType, h],
    rTypeIs_of_decodeRType (by decide) fun f h => by simp [decodeRType, h], fun s rd rt rs => ?_⟩
  rw [← registerShiftAmount_toNat]
  refine ⟨?sllv, ?srlv⟩
  case sllv => exact completes_of_writeBack rfl fun k => getLsbD_shiftLeft _ _
  case srlv => exact completes_of_writeBack rfl fun k _ => getLsbD_shiftRightLogical _ _ k

end Sys2Proof.Machine
end

section
/-! SUPPORT. The wrap-around and the comparisons in the statements' own terms (spec/00_scope.md R8, R9), and the
statements of the operations on two registers (spec/42_register_alu.md). -/

namespace Sys2Proof.Machine

open Sys2Proof.Spec

/-! ### Function codes -/

/-- The decoder selects by the function code alone (R52), so it is enough to run it with that code put in place. -/
theorem rTypeIs_of_withFunct {funct : Code} {mk : Fields → Instr} (hne : funct ≠ 0)
    (h : ∀ f : Fields, decodeRType { f with funct := funct } = .ok (mk f)) : RTypeIs funct mk := by
  refine rTypeIs_of_decodeRType hne fun f hfunct => ?_
  subst hfunct
  exact h f

/-! ### Readings, `word32` and `bool32` -/

theorem signed_eq_signedReading (x : Word) : signed x = signedReading x := by
  rw [signed_eq, signedReading]
  split <;> rfl

/-- The model's `word32` is the one R8 names: it removes the multiples of 2^32. -/
theorem isWord32_word32 (n : Int) : IsWord32 (word32 n) n := by
  refine ⟨-(n / 2 ^ 32), ?_⟩
  have h := word32_toNat n
  rw [unsignedReading]
  omega

/-- The model's `bool32` is the one R9 names. -/
theorem isBool32_bool32 (c : Prop) [Decidable c] : IsBool32 (bool32 (decide c)) c :=
  ⟨fun h => by simp [bool32, h], fun h => by simp [bool32, h]⟩

/-! ### The arithmetic operators -/

theorem isWord32_addSigned (a b : Word) : IsWord32 (addSigned a b) (signedReading a + signedReading b) := by
  simpa only [addSigned, signed_eq_signedReading] using isWord32_word32 (signed a + signed b)

theorem isWord32_subSigned (a b : Word) : IsWord32 (subSigned a b) (signedReading a - signedReading b) := by
  simpa only [subSigned, signed_eq_signedReading] using isWord32_word32 (signed a - signed b)

theorem isWord32_subUnsigned (a b : Word) :
    IsWord32 (subUnsigned a b) (unsignedReading a - unsignedReading b) :=
  isWord32_word32 _

/-- The two readings of each operand differ by a multiple of 2^32, so their sums wrap to one word (R120). -/
theorem addSigned_eq_addUnsigned (a b : Word) : addSigned a b = addUnsigned a b :=
  word32_congr (Int.ModEq.add (signed_emod a) (signed_emod b))

theorem subSigned_eq_subUnsigned (a b : Word) : subSigned a b = subUnsigned a b :=
  word32_congr (Int.ModEq.sub (signed_emod a) (signed_emod b))

/-! ### The comparisons -/

theorem isBool32_setLessSigned (a b : Word) :
    IsBool32 (setLessSigned a b) (signedReading a < signedReading b) := by
  simpa only [setLessSigned, signed_eq_signedReading] using isBool32_bool32 (signed a < signed b)

theorem isBool32_setLessUnsigned (a b : Word) :
    IsBool32 (setLessUnsigned a b) (unsignedReading a < unsignedReading b) :=
  isBool32_bool32 _

/-! ### The statements -/

/-- Settles O5: the value written is `word32` of the sum. -/
theorem addAndAdduWrapWithoutTrap : Obligations.AddAndAdduWrapWithoutTrap := by
  refine ⟨rTypeIs_of_withFunct (by decide) fun _ => rfl, rTypeIs_of_withFunct (by decide) fun _ => rfl,
    fun s rd rs rt => ⟨?add, ?addu⟩⟩
  case add => exact completes_of_writeBack rfl (isWord32_addSigned _ _)
  case addu => exact completes_of_writeBack rfl (isWord32_addUnsigned _ _)

/-- Settles O6: the value written is `word32` of the difference, `rs` less `rt`. -/
theorem subAndSubuWrapWithoutTrap : Obligations.SubAndSubuWrapWithoutTrap := by
  refine ⟨rTypeIs_of_withFunct (by decide) fun _ => rfl, rTypeIs_of_withFunct (by decide) fun _ => rfl,
    fun s rd rs rt => ⟨?sub, ?subu⟩⟩
  case sub => exact completes_of_writeBack rfl (isWord32_subSigned _ _)
  case subu => exact completes_of_writeBack rfl (isWord32_subUnsigned _ _)

/-- Settles O7, by the bits of the word written. -/
theorem logicalOperationsWorkBitByBit : Obligations.LogicalOperationsWorkBitByBit := by
  refine ⟨rTypeIs_of_withFunct (by decide) fun _ => rfl, rTypeIs_of_withFunct (by decide) fun _ => rfl,
    rTypeIs_of_withFunct (by decide) fun _ => rfl, fun s rd rs rt => ⟨?and, ?or, ?xor⟩⟩
  case and => exact completes_of_writeBack rfl fun k _ => by rw [BitVec.getLsbD_and, Bool.and_eq_true]
  case or => exact completes_of_writeBack rfl fun k _ => by rw [BitVec.getLsbD_or, Bool.or_eq_true]
  case xor => exact completes_of_writeBack rfl fun k _ => by rw [BitVec.getLsbD_xor, bne_iff_ne]

/-- Settles O8: the value written is `bool32` of the comparison. -/
theorem sltAndSltuWriteZeroOrOne : Obligations.SltAndSltuWriteZeroOrOne := by
  refine ⟨rTypeIs_of_withFunct (by decide) fun _ => rfl, rTypeIs_of_withFunct (by decide) fun _ => rfl,
    fun s rd rs rt => ⟨?slt, ?sltu⟩⟩
  case slt => exact completes_of_writeBack rfl (isBool32_setLessSigned _ _)
  case sltu => exact completes_of_writeBack rfl (isBool32_setLessUnsigned _ _)

/-- Settles O13: each pair writes one word to one register, the immediate being extended alike. -/
theorem signedAndUnsignedNamesAgree : Obligations.SignedAndUnsignedNamesAgree := by
  refine fun s => ⟨fun rd rs rt => ?add, fun rd rs rt => ?sub, fun rt rs imm => ?addi⟩
  case add => exact congrArg (writeBack s rd) (addSigned_eq_addUnsigned _ _)
  case sub => exact congrArg (writeBack s rd) (subSigned_eq_subUnsigned _ _)
  case addi => exact congrArg (writeBack s rt) (addSigned_eq_addUnsigned _ _)

end Sys2Proof.Machine
end

section
/-! SUPPORT. Opcodes other than 0, the extended immediate in the statements' own terms (spec/00_scope.md R9,
30_encoding.md R56), and the statements of the immediate operations (spec/43_immediate_alu.md). -/

namespace Sys2Proof.Machine

open Sys2Proof.Spec

/-! ### Opcodes -/

/-- An opcode other than 0 selects by itself alone (R53), so it is enough to run the I-type half with it put in
place. -/
theorem iTypeIs_of_withOpcode {opcode : Code} {mk : Fields → Instr} (hne : opcode ≠ 0)
    (h : ∀ p (f : Fields), decodeIType p { f with opcode := opcode } = .ok (mk f)) : ITypeIs opcode mk := by
  intro p f hop
  subst hop
  exact (decode_iType p hne).trans (h p f)

/-! ### The extended immediate -/

/-- The model's `sext32` is the one R9 names. -/
theorem isSext32_sext32 (imm : Imm16) : IsSext32 (sext32 imm) imm := fun k hk => by
  rw [getLsbD_sext32 imm hk, apply_ite imm.getLsbD]

/-- Bit 15 is all that the two extensions differ in (D9). -/
theorem logicalImm_eq_zext32 (ext : ImmExt) {imm : Imm16} (h : imm.getLsbD 15 = false) :
    logicalImm ext imm = zext32 imm := by
  cases ext with
  | sign => exact BitVec.signExtend_eq_setWidth_of_msb_false (imm.msb_eq_getLsbD_last.trans h)
  | zero => rfl

/-! ### One write in two states -/

/-- Equal words written to one register leave equal registers equal. -/
theorem regs_eq_of_writeBack {i : Instr} {s s' : State} {d : RegIdx} {v v' : Word} (hregs : s.regs = s'.regs)
    (h : exec i s = writeBack s d v) (h' : exec i s' = writeBack s' d v') (hv : v = v') :
    ∃ t t', exec i s = .next t ∧ exec i s' = .next t' ∧ t.regs = t'.regs :=
  ⟨_, _, h, h', by simp only [State.setReg, hregs, hv]⟩

/-! ### The statements -/

/-- Settles O9: the value written is `word32` of the sum. -/
theorem addiAndAddiuAddTheSignExtendedImmediate : Obligations.AddiAndAddiuAddTheSignExtendedImmediate := by
  refine ⟨iTypeIs_of_withOpcode (by decide) fun _ _ => rfl, iTypeIs_of_withOpcode (by decide) fun _ _ => rfl,
    fun s rt rs imm => ⟨sext32 imm, isSext32_sext32 imm, ?addi, ?addiu⟩⟩
  case addi => exact completes_of_writeBack rfl (isWord32_addSigned _ _)
  case addiu => exact completes_of_writeBack rfl (isWord32_addUnsigned _ _)

/-- Settles O10: the value written is `bool32` of the comparison. -/
theorem sltiAndSltiuCompareWithTheSignExtendedImmediate :
    Obligations.SltiAndSltiuCompareWithTheSignExtendedImmediate := by
  refine ⟨iTypeIs_of_withOpcode (by decide) fun _ _ => rfl, iTypeIs_of_withOpcode (by decide) fun _ _ => rfl,
    fun s rt rs imm => ⟨sext32 imm, isSext32_sext32 imm, ?slti, ?sltiu⟩⟩
  case slti => exact completes_of_writeBack rfl (isBool32_setLessSigned _ _)
  case sltiu => exact completes_of_writeBack rfl (isBool32_setLessUnsigned _ _)

/-- Settles O12: both operands are equal in the two states, the immediate being zero-extended in effect. -/
theorem logicalImmediatesAgreeWhenBit15IsClear : Obligations.LogicalImmediatesAgreeWhenBit15IsClear := by
  intro s s' rt rs imm h15 hregs i hi
  have hreg : s.reg rs = s'.reg rs := by simp only [State.reg, hregs]
  have himm : logicalImm s.params.logicalImmExt imm = logicalImm s'.params.logicalImmExt imm :=
    (logicalImm_eq_zext32 _ h15).trans (logicalImm_eq_zext32 _ h15).symm
  obtain rfl | rfl | rfl := hi
  case inl => exact regs_eq_of_writeBack hregs rfl rfl (congrArg₂ (· &&& ·) hreg himm)
  case inr.inl => exact regs_eq_of_writeBack hregs rfl rfl (congrArg₂ (· ||| ·) hreg himm)
  case inr.inr => exact regs_eq_of_writeBack hregs rfl rfl (congrArg₂ (· ^^^ ·) hreg himm)

end Sys2Proof.Machine
end

section
/-! SUPPORT. The step that raises the error, runs up to an error and past one, and the statements of the exceptions
(spec/60_exceptions.md). -/

namespace Sys2Proof.Machine

open Sys2Proof.Spec

/-! ### One step that completes, or raises the error -/

/-- A step on presented fields the decoder knows answers a next state, with those fields consumed (R163). -/
theorem step_completes {s : State} {f : Fields} {rest : List Fields} {i : Instr} (hin : s.input = f :: rest)
    (hd : decode s.params f = .ok i) :
    ∃ t, step s = .next t ∧ exec i (s.present rest) = .next t ∧ t.input = rest ∧ t.params = s.params := by
  obtain ⟨t, hx⟩ := exec_completes i (s.present rest)
  obtain ⟨hparams, hinput, -⟩ := exec_frame hx
  exact ⟨t, (step_of_decode hin hd).trans hx, hx, hinput, hparams⟩

/-- A step on presented fields raises the error exactly where the decoder does not know them (R160). -/
theorem step_eq_fault_iff {s : State} {f : Fields} {rest : List Fields} (hin : s.input = f :: rest) :
    step s = .fault (.unsupportedInstruction f.opcode f.funct) ↔ ∃ u, decode s.params f = .error u := by
  refine ⟨fun h => ?_, fun ⟨_, hd⟩ => step_of_decode_error hin hd⟩
  cases hd : decode s.params f with
  | error u => exact ⟨u, rfl⟩
  | ok i =>
    obtain ⟨t, ht, -⟩ := step_completes hin hd
    exact nomatch ht.symm.trans h

/-- In an error step the block reports the codes as presented and writes nothing (R88, D16). -/
theorem outputs_of_decode_error {s : State} {f : Fields} {u : Unsupported} (hd : decode s.params f = .error u) :
    (s.outputs f).unsupported = true ∧ (s.outputs f).we = false ∧
      (s.outputs f).errOpcode = f.opcode ∧ (s.outputs f).errFunct = f.funct := by
  rw [State.outputs, block_of_error hd]
  exact ⟨rfl, rfl, rfl, rfl⟩

/-! ### Runs up to an error -/

/-- Where every register holds a value, the machine and either caller run supported field sets to one state, and
the rest of each run is the run from there (R184). -/
theorem run_supported_append {c : Bool} {pre tail : List Fields} {k : DefinedRegs} {s : State}
    (hin : s.input = pre ++ tail) (hpre : ∀ g ∈ pre, supported s.params g = true) (hk : ∀ r, k.has r = true) :
    ∃ (t : State) (k' : DefinedRegs),
      (∀ n, Sys2Proof.core.run (pre.length + n) s = Sys2Proof.core.run n t) ∧
      t.input = tail ∧ t.params = s.params ∧ callerRun c (pre ++ tail) k s = callerRun c tail k' t := by
  induction pre generalizing k s with
  | nil => exact ⟨s, k, fun n => by rw [List.length_nil, Nat.zero_add], hin, rfl, rfl⟩
  | cons g pre ih =>
    rw [List.cons_append] at hin ⊢
    obtain ⟨i, hd⟩ := supported_eq_true.mp (hpre g List.mem_cons_self)
    obtain ⟨m, hstep, hx, hinput, hparams⟩ := step_completes hin hd
    have hm : ∀ q ∈ pre, supported m.params q = true := fun q hq =>
      hparams ▸ hpre q (List.mem_cons_of_mem g hq)
    have hki : ∀ r, (k.afterInstr i).has r = true := fun r => by simp [afterInstr_has, hk r]
    obtain ⟨t, k', hrun, htail, hp, hcaller⟩ := ih hinput hm hki
    refine ⟨t, k', fun n => ?_, htail, hp.trans hparams, ?_⟩
    · rw [List.length_cons, Nat.add_right_comm, core_run_succ_of_next _ hstep, hrun]
    · have hu : uninitRead k i = none := uninitRead_eq_none.mpr fun r _ => hk r
      rw [callerRun_exec hd hu hx, hcaller]

/-- `allDefined` leaves no register without a value. -/
theorem allDefined_has (r : RegIdx) : allDefined.has r = true := by
  simp [allDefined, DefinedRegs.has]

/-! ### The statements -/

/-- Settles O32: every decoded instruction completes, and the block and the stopping caller each have one equation
for the error. -/
theorem unsupportedIsRaisedExactlyWhenDecodeFails : Obligations.UnsupportedIsRaisedExactlyWhenDecodeFails := by
  refine fun s f rest hin => ⟨step_eq_fault_iff hin, fun u hd => ⟨outputs_of_decode_error hd, fun k => ?_⟩⟩
  obtain rfl := decode_eq_error hd
  rw [callerRun_stop hd]
  exact ⟨rfl, rfl, rfl⟩

/-- Settles O33, by what is presented and whether the decoder knows it. -/
theorem onlyUnsupportedInstructionsStopAStep : Obligations.OnlyUnsupportedInstructionsStopAStep := by
  intro s
  cases hin : s.input with
  | nil => exact .inl ⟨rfl, by simp only [step, fetch_eq_none.mpr hin]⟩
  | cons f rest =>
    refine .inr ⟨f, rest, rfl, ?_⟩
    cases hd : decode s.params f with
    | error u => exact .inl ⟨⟨u, rfl⟩, step_of_decode_error hin hd⟩
    | ok i =>
      obtain ⟨t, ht, -, hinput, hparams⟩ := step_completes hin hd
      exact .inr ⟨i, t, rfl, ht, hinput, hparams⟩

/-- Settles O38: both runs pass the supported field sets to one state, where the step faults and the caller stops. -/
theorem runStopsAtTheFirstUnsupportedInstruction : Obligations.RunStopsAtTheFirstUnsupportedInstruction := by
  intro s pre f rest hin hpre hf
  obtain ⟨t, k, hrun, hinput, hparams, hcaller⟩ := run_supported_append (c := false) hin hpre allDefined_has
  have hd : decode t.params f = .error f.unsupported := supported_eq_false.mp (hparams ▸ hf)
  refine ⟨fun n => ?_, t, hrun 0, hinput, ?_⟩
  · rw [Nat.add_assoc, hrun, Nat.add_comm, core_run_succ_of_fault n (step_of_decode_error hinput hd)]
  · rw [hin, hcaller, callerRun_stop hd]
    exact ⟨rfl, rfl⟩

/-- Settles O39, by induction on the unsupported field sets: each adds its error to the report and nothing else. -/
theorem stepsAfterAnErrorRunAsWithoutIt : Obligations.StepsAfterAnErrorRunAsWithoutIt := by
  intro s bad rest k hbad
  induction bad with
  | nil => rfl
  | cons g bad ih =>
    obtain ⟨hg, hbad⟩ := List.forall_mem_cons.mp hbad
    rw [List.cons_append, callerRun_continue (supported_eq_false.mp hg), ih hbad]
    rfl

end Sys2Proof.Machine
end

section
/-! SUPPORT. Launch and reset, whole runs, and the statements of reset and hazards
(spec/70_reset_and_hazards.md). -/

namespace Sys2Proof.Machine

open Sys2Proof.Spec

/-- At launch, `K` is untouched where no instruction of the program has a destination in it (R185). -/
theorem untouched_launch {K : RegIdx → Prop} {p : Params} {program : List Fields} (init : Vector Word 32)
    (hK : ∀ f ∈ program, ∀ i, decode p f = .ok i → ∀ d, dest i = some d → ¬ K d) :
    Untouched p K (State.launch init p program).reg (State.launch init p program) :=
  ⟨launch_params init p program, fun _ _ => rfl, hK⟩

/-- Where every register holds a value, a caller that stops on an error and the machine reach the same end: the
same state, or the same fault (R185). -/
theorem callerRun_false_eq_core_run {program : List Fields} {k : DefinedRegs} {s : State}
    (hk : ∀ r, k.has r = true) :
    ((callerRun false program k s).cause = .normal ∧
      Sys2Proof.core.run program.length (s.present program) = .next (callerRun false program k s).state) ∨
    ∃ r, (callerRun false program k s).cause = .fault r ∧
      Sys2Proof.core.run program.length (s.present program) = .fault r := by
  induction program generalizing k s with
  | nil => exact .inl ⟨rfl, rfl⟩
  | cons f rest ih =>
    have hin : (s.present (f :: rest)).input = f :: rest := present_input s _
    cases hd : decode s.params f with
    | error u =>
      obtain rfl := decode_eq_error hd
      rw [callerRun_stop hd]
      exact .inr ⟨_, rfl, core_run_succ_of_fault rest.length (step_of_decode_error hin hd)⟩
    | ok i =>
      obtain ⟨t, hstep, hx, rfl, -⟩ := step_completes hin hd
      have hu : uninitRead k i = none := uninitRead_eq_none.mpr fun r _ => hk r
      have hki : ∀ r, (k.afterInstr i).has r = true := fun r => by simp [afterInstr_has, hk r]
      rw [callerRun_exec hd hu hx, List.length_cons, core_run_succ_of_next _ hstep]
      exact ih hki

/-! ### The statements -/

/-- Settles O37: the supported field sets are the whole input, so the run past them has nothing left to present. -/
theorem supportedProgramsRunToTheirEnd : Obligations.SupportedProgramsRunToTheirEnd := by
  intro s hs
  have hin : s.input = s.input ++ [] := (List.append_nil s.input).symm
  obtain ⟨t, -, hrun, hinput, hparams, -⟩ :=
    run_supported_append (c := false) hin (List.all_eq_true.mp hs) allDefined_has
  exact ⟨t, hrun 0, hinput, hparams⟩

/-- Settles O40, by induction on the program: the caller's run and the machine's run take each step together. -/
theorem callerRunIsTheMachinesRun : Obligations.CallerRunIsTheMachinesRun :=
  fun _ _ => callerRun_false_eq_core_run allDefined_has

/-- Settles O36: reset is the launch of the empty program. -/
theorem untouchedHoldsAtLaunchAndReset : Obligations.UntouchedHoldsAtLaunchAndReset :=
  ⟨fun init _ _ _ hK => untouched_launch init hK,
    fun _ => untouched_launch Config.regInit fun _ hf => absurd hf List.not_mem_nil⟩

end Sys2Proof.Machine
end

section
/-! SUPPORT. The default build's reading of assembled words, and the sample words of spec/95_test_vectors.md. -/

namespace Sys2Proof.Machine

open Sys2Proof.Spec

/-- The default build has all 22 operations (R6). -/
theorem wellFormed_default (i : Instr) : i.wellFormed Params.default = true :=
  Bool.or_true _

/-- A word that the encoder assembles from an instruction is read as that instruction by the default build. -/
theorem decodeWord_default_of_encode_eq {i : Instr} {w : Word} (h : encode i = w) :
    decodeWord Params.default w = .ok i :=
  h ▸ decodeWord_encode (wellFormed_default i)

/-- Function code 63 is one of R62's illegal numbers. -/
theorem illegal_of_funct_63 {p : Params} {f : Fields} (h0 : f.opcode = 0) (h : f.funct = 0x3F) : Illegal p f := by
  simp [Illegal, h0, h]

/-! ### The statement -/

/-- Settles O29: each listed word is the encoder's word for the instruction beside it, and the last one is illegal. -/
theorem sampleWordsDecodeAsListed : Obligations.SampleWordsDecodeAsListed := by
  have herror : decodeWord Params.default 0x0000003F = .error { opcode := 0x00, funct := 0x3F } :=
    decode_eq_error_iff.mpr (illegal_of_funct_63 rfl rfl)
  refine ⟨?_, ?_, ?_, ?_, ?_, ?_, ?_, ?_, ?_, ?_, ?_, herror⟩
  all_goals exact decodeWord_default_of_encode_eq rfl

end Sys2Proof.Machine
end
